-- ==== Sys2Proof/Word.lean ====
section
/-! DEFINITION. The word types of EPDSEQ (00_scope.md R12): bytes, 16-bit coordinates, the 96-bit request word. -/

namespace Sys2Proof

/-- `u8` of R12. -/
abbrev Byte := BitVec 8

/-- `u16` of R12: a coordinate or extent operand. -/
abbrev Half := BitVec 16

/-- The request word `REQ` of R63. -/
abbrev RequestWord := BitVec 96

end Sys2Proof
end

