-- ==== Sys2Proof/Syntax.lean ====
section
/-! DEFINITION. The twelve operations of spec/opcode_table.json (30_encoding.md R65), each with the operands R65 gives
it, and the abstract form of a line of assembly source (R83, R84). -/

namespace Sys2Proof

/-- One constructor per row of the opcode table. Operands are the request fields the operation uses; every value of a
field's type is an operand the encoding admits. -/
inductive Instr where
  /-- `BIND id`: `VAL` is the model id (R147). -/
  | bind (id : Byte)
  /-- `INIT` (R116). -/
  | init
  /-- `INIT_FAST` (R118). -/
  | initFast
  /-- `CLEAR rf`: `FLAGS.RF` (R129). -/
  | clear (rf : Bool)
  /-- `WRITE_IMAGE bp, cp, x, y, w, h` (R133). -/
  | writeImage (bp cp : Bool) (x y w h : Half)
  /-- `REFRESH` (R120). -/
  | refresh
  /-- `SLEEP` (R124). -/
  | sleep
  /-- `READ_TEMPERATURE` (R140). -/
  | readTemperature
  /-- `FORCE_TEMPERATURE v`: `VAL` is the two's complement byte of v (R142). -/
  | forceTemperature (value : Byte)
  /-- `GET_ACTIVE_MODEL` (R150). -/
  | getActiveModel
  /-- `LUT_DUMP` (R152). -/
  | lutDump
  /-- `RAM_STREAM` (R153). -/
  | ramStream
deriving DecidableEq, Repr

/-- A line of source in R83's syntax, its numbers as written (not yet checked against the width of their field), or one
of R84's two directives. -/
inductive SourceLine where
  | bind (id : Nat)
  | init
  | initFast
  | clear (rf : Nat)
  | writeImage (bp cp x y w h : Nat)
  | refresh
  | sleep
  | readTemperature
  | forceTemperature (v : Int)
  | getActiveModel
  | lutDump
  | ramStream
  /-- `.black b0 b1 ...` (R84). -/
  | black (bytes : List Nat)
  /-- `.color b0 b1 ...` (R84). -/
  | color (bytes : List Nat)
deriving DecidableEq, Repr

end Sys2Proof
end

