-- ==== Sys2Proof/WellFormed.lean ====
section
/-! DEFINITION. Well-formedness of source lines (30_encoding.md R83, R84): every number fits the field it is assembled
into. A term of `Instr` carries field values, so every such term is well formed; the checks stand where a number has
not been given a width yet. (Well-formedness of `CFG` is `Cfg.wf` in Machine/Catalog.lean.) -/

namespace Sys2Proof

/-- The range R83 gives each operand: ids are `u8` (R7), flags 0 or 1, coordinates `u16` (R68), a temperature is an
`i8`, a buffer byte a `u8`. -/
def SourceLine.wf : SourceLine → Bool
  | .bind id => id < 256
  | .clear rf => rf ≤ 1
  | .writeImage bp cp x y w h => bp ≤ 1 && cp ≤ 1 && x < 65536 && y < 65536 && w < 65536 && h < 65536
  | .forceTemperature v => -128 ≤ v && v ≤ 127
  | .black bs => bs.all (· < 256)
  | .color bs => bs.all (· < 256)
  | .init | .initFast | .refresh | .sleep | .readTemperature | .getActiveModel | .lutDump | .ramStream => true

end Sys2Proof
end

