-- ==== Sys2Proof/Decode.lean ====
section
/-! DEFINITION. The request word (30_encoding.md R63 to R69, R78, R79, R82): its fields, the decoder, total on every
96-bit word, and after it the encoder, written from the same table. -/

namespace Sys2Proof

/-! ### Fields of the request word (R64) -/

/-- `OP`, bits [95:88]. -/
def reqOp (q : RequestWord) : Byte := q.extractLsb' 88 8

/-- `FLAGS`, bits [87:80]. -/
def reqFlags (q : RequestWord) : Byte := q.extractLsb' 80 8

/-- `VAL`, bits [79:72]. -/
def reqVal (q : RequestWord) : Byte := q.extractLsb' 72 8

/-- `X`, bits [63:48]. -/
def reqX (q : RequestWord) : Half := q.extractLsb' 48 16

/-- `Y`, bits [47:32]. -/
def reqY (q : RequestWord) : Half := q.extractLsb' 32 16

/-- `W`, bits [31:16]. -/
def reqW (q : RequestWord) : Half := q.extractLsb' 16 16

/-- `H`, bits [15:0]. -/
def reqH (q : RequestWord) : Half := q.extractLsb' 0 16

/-- `FLAGS.BP`, bit 80 of the word (R64, R66). -/
def flagBp (flags : Byte) : Bool := flags.getLsbD 0

/-- `FLAGS.CP`, bit 81 of the word. -/
def flagCp (flags : Byte) : Bool := flags.getLsbD 1

/-- `FLAGS.RF`, bit 82 of the word. -/
def flagRf (flags : Byte) : Bool := flags.getLsbD 2

/-- What a word decodes to (R82): one of the assigned operations, or an unassigned opcode, which is rejected by its
number. -/
inductive Decoded where
  | assigned (i : Instr)
  | unassigned (op : Byte)
deriving DecidableEq, Repr

/-- The decoder. It reads `OP` alone to choose the operation (R63, R65) and drops the fields the operation does not use
(R69). -/
def decode (q : RequestWord) : Decoded :=
  match (reqOp q).toNat with
  | 0x01 => .assigned (.bind (reqVal q))
  | 0x02 => .assigned .init
  | 0x03 => .assigned .initFast
  | 0x04 => .assigned (.clear (flagRf (reqFlags q)))
  | 0x05 => .assigned (.writeImage (flagBp (reqFlags q)) (flagCp (reqFlags q)) (reqX q) (reqY q) (reqW q) (reqH q))
  | 0x06 => .assigned .refresh
  | 0x07 => .assigned .sleep
  | 0x08 => .assigned .readTemperature
  | 0x09 => .assigned (.forceTemperature (reqVal q))
  | 0x0A => .assigned .getActiveModel
  | 0x0B => .assigned .lutDump
  | 0x0C => .assigned .ramStream
  | _ => .unassigned (reqOp q)

/-- The operation a word decodes to, if its opcode is assigned. -/
def Decoded.instr? : Decoded → Option Instr
  | .assigned i => some i
  | .unassigned _ => none

/-- The decoder on a word numbered as spec/opcode_table.json numbers it. The request is one 96-bit word whose bit
numbers are the table's own (R78), so there is nothing to lay out; bits above `nbits` are 0. -/
def decodeTableWord (nbits w : Nat) : Option Instr :=
  (decode (BitVec.ofNat 96 (w % 2 ^ nbits))).instr?

/-! ### The encoder (R64, R65, R83: unused fields are zero) -/

/-- A request word from its fields; `RSV` is zero. -/
def packRequest (op flags val : Byte) (x y w h : Half) : RequestWord :=
  op ++ flags ++ val ++ (0 : Byte) ++ x ++ y ++ w ++ h

/-- `FLAGS` with the reserved bits zero (R64). -/
def packFlags (bp cp rf : Bool) : Byte :=
  (0 : BitVec 5) ++ BitVec.ofBool rf ++ BitVec.ofBool cp ++ BitVec.ofBool bp

/-- R65's opcode values. -/
def opcode : Instr → Byte
  | .bind _ => 0x01
  | .init => 0x02
  | .initFast => 0x03
  | .clear _ => 0x04
  | .writeImage .. => 0x05
  | .refresh => 0x06
  | .sleep => 0x07
  | .readTemperature => 0x08
  | .forceTemperature _ => 0x09
  | .getActiveModel => 0x0A
  | .lutDump => 0x0B
  | .ramStream => 0x0C

/-- The word of an instruction. -/
def encode (i : Instr) : RequestWord :=
  match i with
  | .bind id => packRequest (opcode i) 0 id 0 0 0 0
  | .clear rf => packRequest (opcode i) (packFlags false false rf) 0 0 0 0 0
  | .writeImage bp cp x y w h => packRequest (opcode i) (packFlags bp cp false) 0 x y w h
  | .forceTemperature v => packRequest (opcode i) 0 v 0 0 0 0
  | .init | .initFast | .refresh | .sleep | .readTemperature | .getActiveModel | .lutDump | .ramStream =>
    packRequest (opcode i) 0 0 0 0 0 0

end Sys2Proof
end

