-- ==== Sys2Proof/Config.lean ====
section
/-! DEFINITION. The configuration record `CFG` of 00_scope.md R6 to R11 as plain data, the two free values of the
model, and the reference configurations of 95_test_vectors.md section 1. -/

namespace Sys2Proof

/-- Colour capability of a panel model (R7). -/
inductive Color where
  | bw | bwr | bwry
deriving DecidableEq, Repr

/-- Which coordinate encoding a chip uses (R8, R92, R94). -/
inductive AddrStyle where
  | window | counter
deriving DecidableEq, Repr

/-- How pixel data is streamed (R8, R102). -/
inductive PlaneStrategy where
  | single | sequential | doubleHeight
deriving DecidableEq, Repr

/-- One (command, data) pair of an init table (R8, R117). -/
structure InitWrite where
  cmd  : Byte
  args : List Byte
deriving DecidableEq, Repr

/-- The value of `init_table` at one model geometry. R117 makes the table a function of width, height and colour and of
nothing else; a finite map with exactly that key holds it as data (DESIGN CHOICE, log 3). -/
structure InitTable where
  width  : Nat
  height : Nat
  color  : Color
  writes : List InitWrite
deriving DecidableEq, Repr

/-- A model descriptor (R7). `driver` is a driver identifier. -/
structure Model where
  id          : Byte
  driver      : Nat
  color       : Color
  width       : Nat
  height      : Nat
  cmdRamBlack : Byte
  cmdRamColor : Byte
deriving DecidableEq, Repr

/-- The value of `init_fast_table` at one model (R8). R117 narrows `init_table` alone, so this table may depend on the whole
descriptor: its key is all of it (log 3). -/
structure FastTable where
  model  : Model
  writes : List InitWrite
deriving DecidableEq, Repr

/-- A driver descriptor: the fields of R8's table, in its order. Levels are one bit, `true` for 1. -/
structure Driver where
  addrStyle           : AddrStyle
  endInclusive        : Bool
  planeStrategy       : PlaneStrategy
  colors              : List Color
  fillerBlack         : Byte
  fillerColor         : Byte
  hasInitFast         : Bool
  idleLevel           : Bool
  rstLevel            : Bool
  rstMs               : Nat
  initTables          : List InitTable
  initFastTables      : List FastTable
  cPon                : Byte
  cPoff               : Byte
  cRefresh            : Byte
  cSleep              : Byte
  sleepArgs           : List Byte
  cTsense             : Byte
  tempPreUpdate       : Option (Byte × Byte)
  cTforce             : Byte
  forcePreCascade     : Option (Byte × Byte)
  refreshReadsTemp    : Bool
  refreshResetsWindow : Bool
  cWindow             : Byte
  cXrange             : Byte
  cYrange             : Byte
  cXcount             : Byte
  cYcount             : Byte
  tPon                : Nat
  tPoff               : Nat
  tRefresh            : Nat
  tTemp               : Nat
deriving DecidableEq, Repr

/-- `CFG` (R6), with the two model-level parameters of R11. `drivers` is the function `CFG.DRIVER`, by identifier. -/
structure Cfg where
  catalog      : List Model
  drivers      : List (Nat × Driver)
  wakeByInit   : Bool
  tempOkInPoff : Bool
deriving DecidableEq, Repr

namespace Config

/-- FREE VALUE (R58, R141, U7; log 6). The byte the transport answers the `k`-th draw with, when State lists no
answer for it: any of the 256 values. -/
opaque freeReadByte : Nat → Byte

/-- FREE VALUE (R75, R94; log 7). What a byte-column index that does not fit one byte is sent as. The only well-formed case
is the exclusive end column 256 of a counter-style panel wider than 2040, where `endByte` (Machine/Operands.lean) keeps it
among the bytes R97 allows. -/
opaque freeIndexByte : Nat → Byte

/-- The catalog rows of 95_test_vectors.md 1.2 and 1.3; drivers are named A = 0, B = 1 (S in its place), C = 2. -/
def model1 : Model := ⟨1, 0, .bw, 400, 300, 0x10, 0x13⟩
@[inherit_doc model1] def model2 : Model := ⟨2, 0, .bwr, 400, 300, 0x10, 0x13⟩
@[inherit_doc model1] def model3 : Model := ⟨3, 1, .bwr, 400, 300, 0x24, 0x26⟩
@[inherit_doc model1] def model4 : Model := ⟨4, 2, .bwry, 400, 300, 0x10, 0x13⟩
@[inherit_doc model1] def model5 : Model := ⟨5, 1, .bw, 200, 200, 0x24, 0x26⟩
@[inherit_doc model1] def model6 : Model := ⟨6, 1, .bw, 122, 250, 0x24, 0x26⟩

/-- The five init writes `DRV_A` and `DRV_C` share the shape of (95_test_vectors.md 1.1), for a 400 by 300 panel. -/
def windowInit400 (panel vcom : Byte) : List InitWrite :=
  [⟨0x00, [panel]⟩, ⟨0x06, [0x17, 0x17, 0x17]⟩, ⟨0x61, [0x01, 0x90, 0x01, 0x2C]⟩, ⟨0x50, [vcom]⟩, ⟨0x30, [0x3C]⟩]

/-- `DRV_B.init_table` (95_test_vectors.md 1.1): `lo` and `hi` are the bytes of height minus one. -/
def counterInit (lo hi : Byte) : List InitWrite :=
  [⟨0x11, [0x03]⟩, ⟨0x0C, [0xD7, 0xD6, 0x9D]⟩, ⟨0x01, [lo, hi, 0x00]⟩, ⟨0x3C, [0x05]⟩, ⟨0x18, [0x80]⟩]

/-- `DRV_A` of 95_test_vectors.md 1.1. Command codes it does not use are 0. -/
def drvA : Driver where
  addrStyle := .window
  endInclusive := true
  planeStrategy := .sequential
  colors := [.bw, .bwr]
  fillerBlack := 0xFF
  fillerColor := 0xFF
  hasInitFast := false
  idleLevel := true
  rstLevel := false
  rstMs := 10
  initTables := [⟨400, 300, .bw, windowInit400 0x1F 0x97⟩, ⟨400, 300, .bwr, windowInit400 0x0F 0x77⟩]
  initFastTables := []
  cPon := 0x04
  cPoff := 0x02
  cRefresh := 0x12
  cSleep := 0x07
  sleepArgs := [0xA5]
  cTsense := 0x40
  tempPreUpdate := none
  cTforce := 0xE5
  forcePreCascade := some (0xE0, 0x02)
  refreshReadsTemp := true
  refreshResetsWindow := false
  cWindow := 0x90
  cXrange := 0
  cYrange := 0
  cXcount := 0
  cYcount := 0
  tPon := 200
  tPoff := 200
  tRefresh := 30000
  tTemp := 100

/-- `DRV_B` of 95_test_vectors.md 1.1. -/
def drvB : Driver where
  addrStyle := .counter
  endInclusive := true
  planeStrategy := .sequential
  colors := [.bwr]
  fillerBlack := 0xFF
  fillerColor := 0xFF
  hasInitFast := false
  idleLevel := false
  rstLevel := false
  rstMs := 10
  initTables := [⟨400, 300, .bwr, counterInit 0x2B 0x01⟩]
  initFastTables := []
  cPon := 0xF1
  cPoff := 0xF0
  cRefresh := 0x20
  cSleep := 0x10
  sleepArgs := [0x01]
  cTsense := 0x1B
  tempPreUpdate := some (0x22, 0xB1)
  cTforce := 0x1A
  forcePreCascade := none
  refreshReadsTemp := true
  refreshResetsWindow := true
  cWindow := 0
  cXrange := 0x44
  cYrange := 0x45
  cXcount := 0x4E
  cYcount := 0x4F
  tPon := 100
  tPoff := 100
  tRefresh := 30000
  tTemp := 100

/-- `DRV_C` of 95_test_vectors.md 1.1. -/
def drvC : Driver :=
  { drvA with
    planeStrategy := .doubleHeight
    colors := [.bwry]
    fillerBlack := 0x55
    fillerColor := 0x55
    hasInitFast := true
    initTables := [⟨400, 300, .bwry, windowInit400 0x0F 0x37⟩]
    initFastTables := [⟨model4, windowInit400 0x0F 0x37 ++ [⟨0xE0, [0x02]⟩, ⟨0xE5, [0x5A]⟩]⟩] }

/-- `DRV_S` of 95_test_vectors.md 1.3. -/
def drvS : Driver :=
  { drvB with
    planeStrategy := .single
    colors := [.bw]
    initTables := [⟨200, 200, .bw, counterInit 0xC7 0x00⟩, ⟨122, 250, .bw, counterInit 0xF9 0x00⟩] }

/-- `TESTCFG` (95_test_vectors.md 1.1, 1.2), with R11's parameters at their default `false`. -/
def testcfg : Cfg where
  catalog := [model1, model2, model3, model4]
  drivers := [(0, drvA), (1, drvB), (2, drvC)]
  wakeByInit := false
  tempOkInPoff := false

/-- `TESTCFG_S` (95_test_vectors.md 1.3). -/
def testcfgS : Cfg where
  catalog := [model1, model2, model4, model5, model6]
  drivers := [(0, drvA), (1, drvS), (2, drvC)]
  wakeByInit := false
  tempOkInPoff := false

end Config

end Sys2Proof
end

