-- ==== Sys2Proof/Machine/State.lean ====
section
/-! DEFINITION. The state of EPDSEQ as plain data (10_state.md), the inputs its run is given, the reference receiver of
20_memory.md R55 to R57 behind its transport port, the reasons a step stops, and the state after reset (R35). -/

namespace Sys2Proof.Machine

/-- `LIFECYCLE` (R22): the five states. Codes 5 to 7 are never produced (U14), so the 3-bit register is this
enumeration (log 19), and Flags.lean gives the codes. -/
inductive Lifecycle where
  | uninit | init | pon | poff | sleep
deriving DecidableEq, Repr

/-- `RESULT` (R28, R71). -/
inductive ResultCode where
  | ok | configurationError | boundsError | unsupportedOperation
deriving DecidableEq, Repr

/-- A transport event (R72), a `READ` with the bytes it yielded (R30). A level is one bit, `true` for 1; durations are
milliseconds. -/
inductive Event where
  | cmd (b : Byte)
  | data (bs : List Byte)
  | read (n : Nat) (got : List Byte)
  | reset (level : Bool) (ms : Nat)
  | wait (level : Bool) (ms : Nat)
  | fill (cmd b : Byte) (n : Nat)
deriving DecidableEq, Repr

/-- The seven operand latches (R17). -/
structure Latches where
  op    : Byte
  flags : Byte
  val   : Byte
  x     : Half
  y     : Half
  w     : Half
  h     : Half
deriving DecidableEq, Repr

/-- The three working registers (R18), at the widths R18 gives them. -/
structure Working where
  xa     : BitVec 16
  wa     : BitVec 17
  stride : BitVec 14
deriving DecidableEq, Repr

/-- The response latches (R28). -/
structure Response where
  result : ResultCode
  rvalid : Bool
  rval   : Byte
deriving DecidableEq, Repr

/-- A byte-addressed space: (address, byte) pairs, addresses strictly rising. An address that is not listed has no
value (Ops.lean, `Memory.unlisted`; log 14, log 16). -/
abbrev Memory := List Host.Cell

/-- A run of byte-columns or of rows: `first`, and `count` of them. -/
structure Span where
  first : Nat
  count : Nat
deriving DecidableEq, Repr

/-- The reference receiver (R55 to R57, R33; log 13): what a controller that obeys R55 holds. No rule of the block
reads it. `none` is "unknown" (log 14). -/
structure Receiver where
  /-- `CRAM` (R43), the known cells of every plane in one space; the address of a cell is `cramAddr`, and a plane's size
  `planeExtent`, of Receiver.lean. -/
  cram   : Memory
  /-- the window's byte-columns (R33 b) -/
  cols   : Option Span
  /-- the window's rows (R33 b) -/
  rows   : Option Span
  /-- the X current-position counter, counter style only (R33 b, R94) -/
  xCount : Option Nat
  /-- the Y current-position counter, counter style only -/
  yCount : Option Nat
  /-- the command whose data is being received (R53) -/
  opened : Option Byte
  /-- argument bytes of the open command so far -/
  args   : List Byte
  /-- how many bytes the open RAM write has stored (R55's k) -/
  cursor : Nat
  /-- the byte last sent after `CMD(D.c_tforce)` (R33 d, R144; log 26) -/
  forced : Option Byte
deriving DecidableEq, Repr

/-- What the host does to the block, one action at a time (R15 b, R199; log 1). -/
inductive HostAction where
  /-- present a request word at the request port (R63) -/
  | request (word : RequestWord)
  /-- fill the black-plane buffer from index 0 (R84 `.black`) -/
  | loadBlack (bytes : List Byte)
  /-- fill the colour-plane buffer from index 0 (R84 `.color`) -/
  | loadColor (bytes : List Byte)
  /-- apply block reset, which is not an opcode (R179; log 18) -/
  | blockReset
deriving DecidableEq, Repr

/-- The state. The first nine groups are the block's own registers (R16 to R18, R21 to R29) and the model's two records;
then the spaces it reads (R39), its inputs, and the far side of the transport (R33). -/
structure State where
  lifecycle : Lifecycle
  bound     : Bool
  activeId  : Byte
  latches   : Latches
  working   : Working
  response  : Response
  busy      : Bool
  seqPc     : Nat
  /-- `LOG` (R30) -/
  log       : List Event
  /-- the RSP words presented so far (R199, R168; log 17) -/
  responses : List (BitVec 11)
  /-- `CAT` and the parameters of R11 (R42; log 2) -/
  cfg       : Cfg
  /-- `BLK` (R40) -/
  blk       : Memory
  /-- `COL` (R41) -/
  col       : Memory
  /-- what the host will do next, first action first (log 1) -/
  host      : List HostAction
  /-- the bytes the transport will answer the next READs with (R31, R58; log 6) -/
  answers   : List Byte
  /-- how many bytes have been drawn: the index of the next free value (log 6) -/
  draws     : Nat
  receiver  : Receiver
deriving DecidableEq, Repr

/-- Why the machine stops with a hardware fault: never. R178: the block "cannot hang and cannot fault in hardware
terms"; the errors of R157 are next states. -/
inductive Fault where
deriving DecidableEq, Repr

/-- Why a step has no meaning. Each is a "refuse" of the spec; all are safe (they prove less, never more). -/
inductive Refusal where
  /-- An instruction without a meaning yet. Raised by no arm. Safe. -/
  | notModelled (mnemonic : String)
  /-- A `refuse` cell of the legality table (R112, U2), raised by every lifecycle-gated operation. Safe. -/
  | lifecycleCell
  /-- `WRITE_IMAGE` with `W = 0` or `H = 0` (R133, U3). Safe. -/
  | zeroExtent
  /-- A request presented while `BUSY = 1` (R186, U4), raised by the request port. Safe. -/
  | requestWhileBusy
  /-- `WRITE_IMAGE` with a present buffer shorter than the stream (R99, U5). Safe. -/
  | shortBuffer
  /-- The host rewrites a buffer while `BUSY = 1` (R191, U5), raised by the host port. Safe. -/
  | bufferChangedWhileBusy
  /-- A request under a `CFG` that R7, R9 or R10 calls ill-formed (R185, U11), raised by the request port. Safe. -/
  | illFormedConfig
  /-- `BOUND = 1` with an `ACTIVE_ID` or driver that `CFG` does not hold, which no run reaches (R25; log 10), or a `BIND`
  of a model whose driver `CFG` does not hold (U11). Safe. -/
  | noActiveModel
deriving DecidableEq, Repr

/-- The receiver of which nothing is known (R35's last row: "unknown"; log 14). -/
def Receiver.unknown : Receiver where
  cram := []
  cols := none
  rows := none
  xCount := none
  yCount := none
  opened := none
  args := []
  cursor := 0
  forced := none

/-- The state after reset (R35) under a given configuration, with no host action, no buffer, no answer listed and
nothing known of the controller. `ACTIVE_ID`, the latches and the working registers are unspecified in R35 and hold 0
here (DESIGN CHOICE, unsafe, log 5). -/
def State.resetWith (cfg : Cfg) : State where
  lifecycle := .uninit
  bound := false
  activeId := 0
  latches := ⟨0, 0, 0, 0, 0, 0, 0⟩
  working := ⟨0, 0, 0⟩
  response := ⟨.ok, false, 0⟩
  busy := false
  seqPc := 0
  log := []
  responses := []
  cfg := cfg
  blk := []
  col := []
  host := []
  answers := []
  draws := 0
  receiver := Receiver.unknown

/-- The machine right after reset. Its `CFG` is the reference configuration of 95_test_vectors.md (DESIGN CHOICE,
unsafe, log 2): `CFG` is an input the spec gives no value. -/
def State.reset : State := State.resetWith Config.testcfg

end Sys2Proof.Machine
end

