-- ==== Sys2Proof/Machine/Catalog.lean ====
section
/-! DEFINITION. Reading the catalog ROM `CAT` (20_memory.md R42): lookups, the active model (10_state.md R26), and when
a configuration is well formed (00_scope.md R7, R9, R10). -/

namespace Sys2Proof.Machine

/-- The entry of `CFG.CATALOG` with the given id (R148); ids are distinct (R7). -/
def findModel (cfg : Cfg) (id : Byte) : Option Model := cfg.catalog.find? (fun m => m.id == id)

/-- `CFG.DRIVER` (R6). -/
def findDriver (cfg : Cfg) (name : Nat) : Option Driver := (cfg.drivers.find? (fun p => p.1 == name)).map Prod.snd

/-- A model with its driver descriptor: `M` and `D` of R26. -/
def findModelDriver (cfg : Cfg) (id : Byte) : Option (Model × Driver) :=
  (findModel cfg id).bind fun m => (findDriver cfg m.driver).map fun d => (m, d)

/-- The table a driver holds for a model's width, height and colour (R117), if it holds one. -/
def lookupTable (tables : List InitTable) (m : Model) : Option (List InitWrite) :=
  (tables.find? fun t => t.width == m.width && t.height == m.height && t.color == m.color).map InitTable.writes

/-- `D.init_table(M)` (R8, R117). A missing table is an ill-formed `CFG`, which the request port refuses. -/
def initTable (d : Driver) (m : Model) : List InitWrite := (lookupTable d.initTables m).getD []

/-- The fast table a driver holds for a model (R8), if it holds one. -/
def lookupFastTable (tables : List FastTable) (m : Model) : Option (List InitWrite) :=
  (tables.find? fun t => t.model == m).map FastTable.writes

/-- `D.init_fast_table(M)` (R8, R118). -/
def initFastTable (d : Driver) (m : Model) : List InitWrite := (lookupFastTable d.initFastTables m).getD []

/-- `M` and `D` of R26: the active model and its driver. -/
def State.active (s : State) : Option (Model × Driver) := findModelDriver s.cfg s.activeId

/-! ### Well-formed configurations -/

/-- A wait timeout in the range R9 gives all waits. -/
def timeoutOk (t : Nat) : Bool := decide (100 ≤ t) && decide (t ≤ 30000)

/-- R9's constraints on a descriptor by itself. `t_refresh` is held to R9's range; that R8 and R197 give it as 30000 is not
required (DESIGN CHOICE, log 29). -/
def driverOk (d : Driver) : Bool :=
  timeoutOk d.tPon && timeoutOk d.tPoff && timeoutOk d.tRefresh && timeoutOk d.tTemp && decide (d.tPon ≤ 200)
    && (d.planeStrategy != .doubleHeight || d.fillerBlack == 0x55)

/-- R7's constraints on a model under a configuration, with R9's on the tables its driver holds for it. R9 gives `init_table(m)`
five entries and no range of `m`: the model asks it of the catalog's models alone, and a table that no catalog model looks up
may have any length (DESIGN CHOICE, log 30). -/
def modelOk (cfg : Cfg) (m : Model) : Bool :=
  decide (1 ≤ m.width) && decide (m.width ≤ 65535) && decide (1 ≤ m.height) && decide (m.height ≤ 65535)
    && (match findDriver cfg m.driver with
        | none => false
        | some d =>
          d.colors.contains m.color
            && (d.addrStyle != .counter || decide (m.width ≤ 2048))
            && (lookupTable d.initTables m).any (fun t => t.length == 5)
            && (!d.hasInitFast || (lookupFastTable d.initFastTables m).isSome))

/-- R10's existence constraints on the three descriptors. -/
def driverSetOk (ds : List Driver) : Bool :=
  ds.length == 3
    && ds.any (fun d => d.addrStyle == .window)
    && ds.any (fun d => d.addrStyle == .counter)
    && ds.any (fun d => d.planeStrategy == .sequential && d.colors.contains .bw && d.colors.contains .bwr)
    && ds.countP (fun d => d.planeStrategy == .doubleHeight) == 1
    && ds.any Driver.hasInitFast
    && ds.any (fun d => d.sleepArgs.length == 1)
    && ds.any (fun d => d.tempPreUpdate.isSome)
    && ds.any (fun d => d.forcePreCascade.isSome)
    && ds.any Driver.refreshResetsWindow

/-- A well-formed `CFG` (R6, R7, R9, R10): the precondition of the whole model (R185, U11). A descriptor that no catalog
model uses is allowed, is held to `driverOk` (R9 but for its tables, log 30), and counts among R10's three (DESIGN CHOICE,
log 27). -/
def cfgOk (cfg : Cfg) : Bool :=
  decide (cfg.catalog.map Model.id).Nodup && decide (cfg.drivers.map Prod.fst).Nodup
    && cfg.catalog.all (modelOk cfg)
    && (cfg.drivers.map Prod.snd).all driverOk
    && driverSetOk (cfg.drivers.map Prod.snd)

end Sys2Proof.Machine
end

