-- ==== Sys2Proof/Machine/Operands.lean ====
section
/-! DEFINITION. Operand forms and address arithmetic: the functions of 00_scope.md R12, the alignment and bounds of
40_window_addressing.md R87 and R88, and the data formats of 30_encoding.md R74 to R76. Sums are exact (R89). -/

namespace Sys2Proof.Machine

/-- `hi(v) = v / 256` (R12), for `v < 65536`. -/
def hi (v : Nat) : Byte := BitVec.ofNat 8 (v / 256)

/-- `lo(v) = v % 256` (R12). -/
def lo (v : Nat) : Byte := BitVec.ofNat 8 (v % 256)

/-- The 16-bit value of a (high, low) byte pair: what the receiver reads back. -/
def ofHiLo (h l : Byte) : Nat := h.toNat * 256 + l.toNat

/-- `ceil8(w)` (R12). -/
def ceil8 (w : Nat) : Nat := ((w + 7) / 8) * 8

/-- `sext_8(b)` (R12): the temperature a byte denotes (R67, R76). -/
def sext8 (b : Byte) : Int := if b.toNat < 128 then b.toNat else (b.toNat : Int) - 256

/-- `zext_8(v)` (R12): the byte of a temperature from -128 to 127. -/
def zext8 (v : Int) : Byte := BitVec.ofInt 8 v

/-- `ALIGN(x, w)` (R87): `(xa, wa)`. -/
def align (x w : Nat) : Nat × Nat := (x - x % 8, ceil8 w)

/-- `BOUNDS(xa, y, wa, h, m)` (R88): `(col_ok, row_ok)`. -/
def bounds (xa y wa h : Nat) (m : Model) : Bool × Bool :=
  (decide (xa + wa ≤ m.width), decide (y + h ≤ m.height))

/-- The byte of a byte-column index (R75). An index of 256 or more has no byte and no well-formed `CFG` sends one as a
start; what would be sent is a free value (log 7). -/
def indexByte (v : Nat) : Byte := if v < 256 then BitVec.ofNat 8 v else Config.freeIndexByte v

/-- The byte of an end byte-column (R75, R94), beside its start. R75 says that it fits, but an exclusive end can be 256; then
it is a free value among the bytes up to the start, which are the ones that mean no other exclusive end, so that R97 can
hold (log 7). -/
def endByte (xsb xeb : Nat) : Byte :=
  if xeb < 256 then BitVec.ofNat 8 xeb else BitVec.ofNat 8 ((Config.freeIndexByte xeb).toNat % (xsb + 1))

/-- `FMT_WINDOW` (R74): each coordinate high byte first. -/
def fmtWindow (xs xe ys ye : Nat) : List Byte :=
  [hi xs, lo xs, hi xe, lo xe, hi ys, lo ys, hi ye, lo ye]

/-- `FMT_XRANGE` (R75). -/
def fmtXrange (xsb xeb : Nat) : List Byte := [indexByte xsb, endByte xsb xeb]

/-- `FMT_YRANGE` (R75): each coordinate low byte first. -/
def fmtYrange (ys ye : Nat) : List Byte := [lo ys, hi ys, lo ye, hi ye]

/-- `FMT_XCOUNT` (R75). -/
def fmtXcount (xsb : Nat) : List Byte := [indexByte xsb]

/-- `FMT_YCOUNT` (R75). -/
def fmtYcount (ys : Nat) : List Byte := [lo ys, hi ys]

end Sys2Proof.Machine
end

