-- ==== Sys2Proof/Machine/Flags.lean ====
section
/-! DEFINITION. The codes of the enumerations, the two words the host reads (STATUS, R27; RSP, R70) and the sub-cause
codes an error leaves in RVAL (60_exceptions.md R163). The response latches are the block's only flags (R28). -/

namespace Sys2Proof.Machine

/-- The 3-bit code of a lifecycle state (R22). -/
def Lifecycle.code : Lifecycle → BitVec 3
  | .uninit => 0
  | .init => 1
  | .pon => 2
  | .poff => 3
  | .sleep => 4

/-- The 2-bit code of a result (R71). -/
def ResultCode.code : ResultCode → BitVec 2
  | .ok => 0
  | .configurationError => 1
  | .boundsError => 2
  | .unsupportedOperation => 3

/-- `ConfigurationError (UNKNOWN_MODEL)`, R163. -/
def subUnknownModel : Byte := 0x01

/-- `ConfigurationError (NOT_BOUND)`, R163. -/
def subNotBound : Byte := 0x02

/-- `ConfigurationError (ALREADY_BOUND)`, R163. -/
def subAlreadyBound : Byte := 0x03

/-- `UnsupportedOperation (UNASSIGNED_OPCODE)`, R163. -/
def subUnassignedOpcode : Byte := 0x01

/-- `UnsupportedOperation (CAPABILITY_ABSENT)`, R163. -/
def subCapabilityAbsent : Byte := 0x02

/-- The sub-cause of a `BoundsError` (R133, R159): bit 0 for the columns, bit 1 for the rows. -/
def subBounds (colOk rowOk : Bool) : Byte := (if colOk then 0 else 1) ||| (if rowOk then 0 else 2)

/-- The response word `RSP` (R70): `[10:9] RESULT`, `8 RVALID`, `[7:0] RVAL`. -/
def Response.word (r : Response) : BitVec 11 := r.result.code ++ BitVec.ofBool r.rvalid ++ r.rval

/-- The response word the block presents (R70). -/
def State.rsp (s : State) : BitVec 11 := s.response.word

/-- The status register `STATUS` (R27): `[15:8] ACTIVE_ID` (zero while unbound), `[7:5]` zero, `4 BUSY`, `3 BOUND`,
`[2:0] LIFECYCLE`. Reading it is computing it: no side effect. -/
def State.status (s : State) : BitVec 16 :=
  (if s.bound then s.activeId else 0) ++ (0 : BitVec 3) ++ BitVec.ofBool s.busy ++ BitVec.ofBool s.bound
    ++ s.lifecycle.code

end Sys2Proof.Machine
end

