-- ==== Sys2Proof/Machine/Memory.lean ====
section
/-! DEFINITION. Byte-addressed spaces as canonical cell lists (20_memory.md R39 to R43): BLK, COL and the receiver's CRAM. -/

namespace Sys2Proof.Machine

/-- What an address that is not listed reads as: no value. BLK and COL hold what the host put there (R99, U5); a RAM cell
nothing has written is unknown (R35). -/
def Memory.unlisted : Option Byte := none

/-- The canonical form: addresses strictly rising. (No listed byte is `Memory.unlisted`, which is no byte.) -/
abbrev Memory.wf (mem : Memory) : Prop := mem.Pairwise (fun a b => a.1 < b.1)

/-- The byte at an address, if it is listed. -/
def Memory.read : Memory → Nat → Option Byte
  | [], _ => Memory.unlisted
  | c :: cs, a => if c.1 = a then some c.2 else Memory.read cs a

/-- Store a byte, keeping the canonical form. -/
def Memory.write : Memory → Nat → Byte → Memory
  | [], a, b => [(a, b)]
  | c :: cs, a, b =>
    if a < c.1 then (a, b) :: c :: cs else if a = c.1 then (a, b) :: cs else c :: Memory.write cs a b

/-- Store a list of cells, first one first. -/
def Memory.writeAll (cells : List Host.Cell) (mem : Memory) : Memory :=
  cells.foldl (fun m c => Memory.write m c.1 c.2) mem

/-- The cells that hold a list of bytes from an index up. -/
def Memory.ofBytesFrom : Nat → List Byte → Memory
  | _, [] => []
  | i, b :: bs => (i, b) :: Memory.ofBytesFrom (i + 1) bs

/-- A buffer whose bytes from index 0 are given (R40, R84). -/
def Memory.ofBytes (bs : List Byte) : Memory := Memory.ofBytesFrom 0 bs

/-- The buffer holds at least `n` bytes (R99): every index below `n` is listed. -/
def Memory.holds (mem : Memory) (n : Nat) : Bool := (List.range n).all fun i => (Memory.read mem i).isSome

/-! ### A quick `writeAll` for compiled runs

`Memory.writeAll` searches from the first cell for every byte, which is slow for a whole panel. The same function with a
finger at the last cell written is proved equal and used by compiled code only. -/

/-- A memory cut at a finger: the cells before it, nearest first, and the cells after it. -/
structure Finger where
  before : List Host.Cell
  after  : List Host.Cell
  last   : Nat

/-- The memory a finger stands in. -/
def Finger.memory (f : Finger) : Memory := f.before.reverse ++ f.after

/-- Walk right to an address and store a byte there. -/
def Finger.seek (a : Nat) (b : Byte) : List Host.Cell → List Host.Cell → Finger
  | pre, [] => ⟨(a, b) :: pre, [], a⟩
  | pre, c :: cs =>
    if a < c.1 then ⟨(a, b) :: pre, c :: cs, a⟩
    else if a = c.1 then ⟨(a, b) :: pre, cs, a⟩
    else Finger.seek a b (c :: pre) cs

/-- Store a cell: on from the finger when its address lies beyond it, else from the start. -/
def Finger.put (f : Finger) (c : Host.Cell) : Finger :=
  if f.last < c.1 then Finger.seek c.1 c.2 f.before f.after else Finger.seek c.1 c.2 [] f.memory

/-- `writeAll` with a finger. -/
def Memory.writeAllQuick (cells : List Host.Cell) (mem : Memory) : Memory :=
  (cells.foldl Finger.put ⟨[], mem, 0⟩).memory

theorem Memory.write_append (p q : Memory) (a : Nat) (b : Byte) (h : ∀ c ∈ p, c.1 < a) :
    Memory.write (p ++ q) a b = p ++ Memory.write q a b := by
  induction p with
  | nil => rfl
  | cons c cs ih =>
    have hc : c.1 < a := h c (by simp)
    have ih := ih fun c hc => h c (by simp [hc])
    simp only [List.cons_append, Memory.write, ih]
    split
    · omega
    · split
      · omega
      · rfl

theorem Finger.seek_memory (a : Nat) (b : Byte) (pre post : List Host.Cell) :
    (Finger.seek a b pre post).memory = pre.reverse ++ Memory.write post a b := by
  induction post generalizing pre with
  | nil => simp [Finger.seek, Finger.memory, Memory.write]
  | cons c cs ih =>
    simp only [Finger.seek, Memory.write]
    split
    · simp [Finger.memory]
    · split
      · simp [Finger.memory]
      · rw [ih]; simp

theorem Finger.seek_last (a : Nat) (b : Byte) (pre post : List Host.Cell) (h : ∀ c ∈ pre, c.1 ≤ a) :
    (Finger.seek a b pre post).last = a ∧ ∀ c ∈ (Finger.seek a b pre post).before, c.1 ≤ a := by
  induction post generalizing pre with
  | nil => simpa [Finger.seek] using h
  | cons c cs ih =>
    simp only [Finger.seek]
    split
    · simpa using h
    · split
      · simpa using h
      · exact ih _ (by simp only [List.mem_cons, forall_eq_or_imp]; exact ⟨by omega, h⟩)

theorem Finger.foldl_put (cells : List Host.Cell) (f : Finger) (h : ∀ c ∈ f.before, c.1 ≤ f.last) :
    (cells.foldl Finger.put f).memory = Memory.writeAll cells f.memory := by
  induction cells generalizing f with
  | nil => rfl
  | cons c cs ih =>
    have step : (f.put c).memory = Memory.write f.memory c.1 c.2 ∧
        ∀ e ∈ (f.put c).before, e.1 ≤ (f.put c).last := by
      unfold Finger.put
      split
      next hlt =>
        have hb : ∀ e ∈ f.before, e.1 < c.1 := fun e he => by have := h e he; omega
        obtain ⟨hl, hle⟩ := Finger.seek_last c.1 c.2 f.before f.after fun e he => (hb e he).le
        refine ⟨?_, by rw [hl]; exact hle⟩
        rw [Finger.seek_memory, Finger.memory, Memory.write_append]
        simpa using hb
      next =>
        obtain ⟨hl, hle⟩ := Finger.seek_last c.1 c.2 [] f.memory (by simp)
        exact ⟨by rw [Finger.seek_memory]; rfl, by rw [hl]; exact hle⟩
    rw [List.foldl_cons, ih _ step.2, step.1]
    rfl

@[csimp] theorem Memory.writeAll_eq_quick : @Memory.writeAll = @Memory.writeAllQuick := by
  funext cells mem
  exact (Finger.foldl_put cells ⟨[], mem, 0⟩ (by simp)).symm

end Sys2Proof.Machine
end

