-- ==== Sys2Proof/Machine/Receiver.lean ====
section
/-! DEFINITION. The reference receiver of 20_memory.md R55 to R57: what a
controller that obeys the spec's contract holds after an event (log 13, log 14, log 15). -/

namespace Sys2Proof.Machine

/-! ### Cells of CRAM -/

/-- The address, in the receiver's one space, of byte-column `c`, row `r` of the plane a RAM command opens. Byte-columns
are below 8192, because a 16-bit pixel column is. -/
def cramAddr (plane : Byte) (c r : Nat) : Nat := (r * 8192 + c) * 256 + plane.toNat

/-- Byte-columns of a plane of the panel (R43): rows are padded to a byte. -/
def planeCols (m : Model) : Nat := (m.width + 7) / 8

/-- Rows of a plane (R43): the panel's, doubled where the controller keeps two bits per pixel in one plane. -/
def planeRows (d : Driver) (m : Model) : Nat :=
  match d.planeStrategy with
  | .single | .sequential => m.height
  | .doubleHeight => 2 * m.height

/-- The bytes of a plane (R43): `N`, `2N` for the 2-bit controller. -/
def planeExtent (d : Driver) (m : Model) : Nat := planeCols m * planeRows d m

/-- A window lies inside a plane: every cell of it is one of the plane's `planeExtent` bytes. -/
def inPlane (d : Driver) (m : Model) (cols rows : Span) : Bool :=
  decide (0 < cols.count) && decide (0 < rows.count) && decide (cols.first + cols.count ≤ planeCols m)
    && decide (rows.first + rows.count ≤ planeRows d m)

/-- The byte of a RAM cell, if it is known. -/
def Receiver.cell (r : Receiver) (plane : Byte) (c row : Nat) : Option Byte := r.cram.read (cramAddr plane c row)

/-- Forget every cell of a plane. -/
def forgetPlane (mem : Memory) (plane : Byte) : Memory := mem.filter fun c => c.1 % 256 != plane.toNat

/-- The address of byte `k` of a RAM write in a window (R55): row-major from the top-left cell, wrapping when the window
is full. -/
def windowAddr (cols rows : Span) (plane : Byte) (k : Nat) : Nat :=
  let i := k % (cols.count * rows.count)
  cramAddr plane (cols.first + i % cols.count) (rows.first + i / cols.count)

/-- The cells a run of bytes goes to, the first of them being byte `k` of the RAM write. -/
def windowCells (cols rows : Span) (plane : Byte) : Nat → List Byte → List Host.Cell
  | _, [] => []
  | k, b :: bs => (windowAddr cols rows plane k, b) :: windowCells cols rows plane (k + 1) bs

/-! ### The window -/

/-- The span from `first` to `last` inclusive, if it is one. -/
def spanTo (first last : Nat) : Option Span := if first ≤ last then some ⟨first, last - first + 1⟩ else none

/-- The span from `first` up to but not including `stop`. -/
def spanBelow (first stop : Nat) : Option Span := if first < stop then some ⟨first, stop - first⟩ else none

/-- The span a coordinate pair means under a driver's end convention (R94). -/
def spanOf (inclusive : Bool) (first last : Nat) : Option Span :=
  if inclusive then spanTo first last else spanBelow first last

/-- The exclusive end an X-range byte means beside its start: itself, or 256 where it is the byte that stands for 256 there
(R97; log 7). -/
def exclusiveStop (first last : Byte) : Nat :=
  if last.toNat ≤ first.toNat ∧ last = endByte first.toNat 256 then 256 else last.toNat

/-- The byte-columns an X-range pair means (R94, R97). -/
def spanOfX (inclusive : Bool) (first last : Byte) : Option Span :=
  if inclusive then spanTo first.toNat last.toNat else spanBelow first.toNat (exclusiveStop first last)

/-- The window the receiver's next RAM write fills (R55), if it is known: on a counter-style controller the
current-position counters must stand at the window's top-left cell. -/
def Receiver.window (d : Driver) (r : Receiver) : Option (Span × Span) :=
  match r.cols, r.rows with
  | some c, some w =>
    match d.addrStyle with
    | .window => some (c, w)
    | .counter => if r.xCount = some c.first ∧ r.yCount = some w.first then some (c, w) else none
  | _, _ => none

/-- The effect of the argument bytes received so far after the window command (R74): eight bytes make a window, any other
number leaves it unknown. -/
def Receiver.takeWindow (r : Receiver) : List Byte → Receiver
  | [a, b, c, e, f, g, h, i] =>
    { r with cols := spanTo (ofHiLo a b / 8) (ofHiLo c e / 8), rows := spanTo (ofHiLo f g) (ofHiLo h i) }
  | _ => { r with cols := none, rows := none }

/-- After the X-range command (R75). -/
def Receiver.takeXrange (d : Driver) (r : Receiver) : List Byte → Receiver
  | [a, b] => { r with cols := spanOfX d.endInclusive a b }
  | _ => { r with cols := none }

/-- After the Y-range command (R75): low bytes first. -/
def Receiver.takeYrange (d : Driver) (r : Receiver) : List Byte → Receiver
  | [a, b, c, e] => { r with rows := spanOf d.endInclusive (ofHiLo b a) (ofHiLo e c) }
  | _ => { r with rows := none }

/-- After the X-counter command (R75). -/
def Receiver.takeXcount (r : Receiver) : List Byte → Receiver
  | [a] => { r with xCount := some a.toNat }
  | _ => { r with xCount := none }

/-- After the Y-counter command (R75). -/
def Receiver.takeYcount (r : Receiver) : List Byte → Receiver
  | [a, b] => { r with yCount := some (ofHiLo b a) }
  | _ => { r with yCount := none }

/-- The byte a forced-temperature write leaves (R142, R144): the last one sent. -/
def Receiver.takeForced (r : Receiver) (args : List Byte) : Receiver := { r with forced := args.getLast? }

/-! ### Events -/

/-- Whether the controller has a colour plane (R43): a dual-plane controller has one, which takes the two streams of `SEQUENTIAL`
(R104). The single-plane ones do not, the two bits a pixel of `DOUBLE_HEIGHT` standing in the one plane. -/
def hasColorPlane (d : Driver) : Bool :=
  match d.planeStrategy with
  | .sequential => true
  | .single | .doubleHeight => false

/-- Whether a command opens a RAM plane of the model on the driver's controller (R43). -/
def isRamCmd (d : Driver) (m : Model) (c : Byte) : Bool :=
  c == m.cmdRamBlack || (hasColorPlane d && c == m.cmdRamColor)

/-- Data bytes into an open RAM write (R55). With the window unknown, any cell of the plane may have been written. The same
holds of a window that reaches beyond the plane (R43, R96): the spec does not say where its bytes go (DESIGN CHOICE, log
28). -/
def Receiver.storeRam (d : Driver) (m : Model) (r : Receiver) (plane : Byte) (bs : List Byte) : Receiver :=
  match r.window d with
  | some (cols, rows) =>
    if inPlane d m cols rows then
      { r with
        cram := Memory.writeAll (windowCells cols rows plane r.cursor bs) r.cram
        cursor := r.cursor + bs.length }
    else { r with cram := forgetPlane r.cram plane, cursor := r.cursor + bs.length }
  | none => { r with cram := forgetPlane r.cram plane, cursor := r.cursor + bs.length }

/-- Argument bytes of an open command that is no RAM command: addressing commands set the window, the force command the
temperature, every other command is opaque. -/
def Receiver.takeArgs (d : Driver) (r : Receiver) (c : Byte) (args : List Byte) : Receiver :=
  match d.addrStyle with
  | .window =>
    if c = d.cWindow then r.takeWindow args
    else if c = d.cTforce then r.takeForced args
    else r
  | .counter =>
    if c = d.cXrange then r.takeXrange d args
    else if c = d.cYrange then r.takeYrange d args
    else if c = d.cXcount then r.takeXcount args
    else if c = d.cYcount then r.takeYcount args
    else if c = d.cTforce then r.takeForced args
    else r

/-- A command byte opens its atomic group (R53). -/
def Receiver.openCmd (r : Receiver) (c : Byte) : Receiver := { r with opened := some c, args := [], cursor := 0 }

/-- End of an atomic group (R53). -/
def Receiver.close (r : Receiver) : Receiver := { r with opened := none, args := [], cursor := 0 }

/-- Data bytes for the open command. -/
def Receiver.takeData (d : Driver) (m : Model) (r : Receiver) (bs : List Byte) : Receiver :=
  match r.opened with
  | none => r
  | some c =>
    if isRamCmd d m c then r.storeRam d m c bs
    else Receiver.takeArgs d { r with args := r.args ++ bs } c (r.args ++ bs)

/-- What the reference receiver of the bound driver does with one event. `FILL` acts as a RAM command followed by its bytes
(R56). `WAIT` and `RESET` end the open group and change nothing else (R53, R57, U12); `READ` changes nothing. -/
def Receiver.feed (d : Driver) (m : Model) (r : Receiver) : Event → Receiver
  | .cmd c => r.openCmd c
  | .data bs => r.takeData d m bs
  | .fill c b n => (((r.openCmd c).takeData d m (List.replicate n b))).close
  | .read _ _ => r
  | .reset _ _ => r.close
  | .wait _ _ => r.close

/-- The receiver after a list of events. -/
def Receiver.feedAll (d : Driver) (m : Model) (r : Receiver) (es : List Event) : Receiver := es.foldl (Receiver.feed d m) r

end Sys2Proof.Machine
end

