-- ==== Sys2Proof/Machine/Ops.lean ====
section
/-! DEFINITION. The operations every meaning is built from: accepting a request, emitting events, drawing the answer of a
READ, ending an operation with `OK` or with an error (60_exceptions.md R164), and the checks of the common preamble
(42_lifecycle_power.md R111). -/

namespace Sys2Proof.Machine

/-- What a step or a meaning answers. -/
abbrev Outcome := Host.Outcome State Fault Refusal

/-! ### Emitting events -/

/-- `emit e` (R13, R21, R30) with `M = m`, `D = d`: the event joins LOG, SEQ_PC counts it, the receiver takes it. -/
def State.emit (m : Model) (d : Driver) (s : State) (e : Event) : State :=
  { s with log := s.log ++ [e], seqPc := s.seqPc + 1, receiver := Receiver.feed d m s.receiver e }

/-- Emit a list of events in order (R59). -/
def State.emitAll (m : Model) (d : Driver) (es : List Event) (s : State) : State := es.foldl (State.emit m d) s

/-- The byte the transport answers the next draw with (R58, R141): the next answer listed, else a free value. -/
def State.nextAnswer (s : State) : Byte := s.answers.headD (Config.freeReadByte s.draws)

/-- Take that byte from the transport. -/
def State.draw (s : State) : State := { s with answers := s.answers.tail, draws := s.draws + 1 }

/-- `[b] <- emit READ(1)` (R13): the byte drawn is `s.nextAnswer`. -/
def State.emitRead (m : Model) (d : Driver) (s : State) : State := (s.draw).emit m d (.read 1 [s.nextAnswer])

/-! ### Ending an operation -/

/-- An operation ends (R199): the response latches are written, BUSY falls, SEQ_PC returns to 0, and the response is
presented (R70). -/
def State.finish (r : Response) (s : State) : State :=
  { s with response := r, busy := false, seqPc := 0, responses := s.responses ++ [r.word] }

/-- End with `OK`, no value. -/
def State.finishOk (s : State) : State := s.finish ⟨.ok, false, 0⟩

/-- End with `OK` and a value (R28). -/
def State.finishValue (b : Byte) (s : State) : State := s.finish ⟨.ok, true, b⟩

/-- `raise E(c)` (R164): the block's one way of taking an error. RESULT and RVAL say which; there is no handler, no saved
state and no mode change, and the block is idle again, which is also the return (R168). -/
def State.raise (e : ResultCode) (c : Byte) (s : State) : State := s.finish ⟨e, false, c⟩

/-! ### Accepting a request -/

/-- A request is accepted (R17, R21, R29, R64): the latches are loaded, BUSY rises, SEQ_PC is 0. -/
def State.accept (q : RequestWord) (s : State) : State :=
  { s with
    latches := ⟨reqOp q, reqFlags q, reqVal q, reqX q, reqY q, reqW q, reqH q⟩
    busy := true
    seqPc := 0 }

/-! ### The checks of the preamble (R111), in its order -/

/-- The bound check: `NOT_BOUND` when `BOUND = 0` (R158, R183), else go on. -/
def ifBound (s : State) (k : Outcome) : Outcome :=
  if s.bound then k else .next (s.raise .configurationError subNotBound)

/-- The bound check for an operation that uses `M` and `D` (R26, R151). -/
def withModel (s : State) (k : Model → Driver → Outcome) : Outcome :=
  ifBound s (match s.active with
    | some (m, d) => k m d
    | none => .refused .noActiveModel)

/-- The capability check (R80, R160). -/
def ifCapable (able : Bool) (s : State) (k : Outcome) : Outcome :=
  if able then k else .next (s.raise .unsupportedOperation subCapabilityAbsent)

/-- The lifecycle check (R112): a `refuse` cell has no meaning. -/
def ifLegal (legal : Bool) (k : Outcome) : Outcome :=
  if legal then k else .refused .lifecycleCell

/-- R112's rows of `CLEAR`, `WRITE_IMAGE` and `REFRESH`. -/
def legalImage : Lifecycle → Bool
  | .init | .poff => true
  | .uninit | .pon | .sleep => false

/-- R112's row of `INIT` and `INIT_FAST`. -/
def legalInit (cfg : Cfg) : Lifecycle → Bool
  | .init | .poff => true
  | .sleep => cfg.wakeByInit
  | .uninit | .pon => false

/-- R112's row of `SLEEP`. -/
def legalSleep : Lifecycle → Bool
  | .init | .pon | .poff => true
  | .uninit | .sleep => false

/-- R112's row of `READ_TEMPERATURE` and `FORCE_TEMPERATURE`. -/
def legalTemp (cfg : Cfg) : Lifecycle → Bool
  | .init | .pon => true
  | .poff => cfg.tempOkInPoff
  | .uninit | .sleep => false

end Sys2Proof.Machine
end

