-- ==== Sys2Proof/Machine/Window.lean ====
section
/-! DEFINITION. The partial-window address calculator's events (40_window_addressing.md R91 to R95). -/

namespace Sys2Proof.Machine

/-- `SET_WINDOW` for `addr_style = WINDOW` (R92). -/
def windowStyleEvents (d : Driver) (x y w h : Nat) : List Event :=
  [.cmd d.cWindow, .data (fmtWindow (x - x % 8) ((x + w - 1) ||| 7) y (y + h - 1))]

/-- The end byte-column sent by `SET_WINDOW` for `addr_style = COUNTER` (R94). -/
def counterEndCol (inclusive : Bool) (x w : Nat) : Nat :=
  if inclusive then (x + w - 1) / 8 else (x + w - 1) / 8 + 1

/-- The end row sent by `SET_WINDOW` for `addr_style = COUNTER` (R94). -/
def counterEndRow (inclusive : Bool) (y h : Nat) : Nat := if inclusive then y + h - 1 else y + h

/-- `SET_WINDOW` for `addr_style = COUNTER` (R94). -/
def counterStyleEvents (d : Driver) (x y w h : Nat) : List Event :=
  [.cmd d.cXrange, .data (fmtXrange (x / 8) (counterEndCol d.endInclusive x w)),
   .cmd d.cYrange, .data (fmtYrange y (counterEndRow d.endInclusive y h)),
   .cmd d.cXcount, .data (fmtXcount (x / 8)),
   .cmd d.cYcount, .data (fmtYcount y)]

/-- `SET_WINDOW(d, x, y, w, h)` (R91). -/
def setWindow (d : Driver) (x y w h : Nat) : List Event :=
  match d.addrStyle with
  | .window => windowStyleEvents d x y w h
  | .counter => counterStyleEvents d x y w h

/-- `FULL_WINDOW(d, m)` (R95). -/
def fullWindow (d : Driver) (m : Model) : List Event := setWindow d 0 0 m.width m.height

end Sys2Proof.Machine
end

