-- ==== Sys2Proof/Machine/Sequences.lean ====
section
/-! DEFINITION. The named sub-sequences of events that several operations run (42_lifecycle_power.md R113 to R116, R120;
44_temperature.md R139). -/

namespace Sys2Proof.Machine

/-- `PON_SEQ(d)` (R113). -/
def State.ponSeq (m : Model) (d : Driver) (s : State) : State :=
  { s.emitAll m d [.cmd d.cPon, .wait d.idleLevel d.tPon] with lifecycle := .pon }

/-- `POF_SEQ(d)` (R114). -/
def State.pofSeq (m : Model) (d : Driver) (s : State) : State :=
  { s.emitAll m d [.cmd d.cPoff, .wait d.idleLevel d.tPoff] with lifecycle := .poff }

/-- One command with its arguments; no `DATA` for an empty list (R62, R116). -/
def cmdWith (c : Byte) (args : List Byte) : List Event :=
  if args = [] then [.cmd c] else [.cmd c, .data args]

/-- The optional "one command, one byte" write some families need first (R139, R142, R143). -/
def optionalWrite : Option (Byte × Byte) → List Event
  | none => []
  | some (c, b) => [.cmd c, .data [b]]

/-- `RESET_PULSE(d)` (R115) and the writes of an init table (R116, R118). -/
def initEvents (d : Driver) (writes : List InitWrite) : List Event :=
  .reset d.rstLevel d.rstMs :: writes.flatMap fun w => cmdWith w.cmd w.args

/-- The body of `INIT` (R116), which is also the body of `BIND` (R147). -/
def State.initBody (m : Model) (d : Driver) (s : State) : State :=
  { s.emitAll m d (initEvents d (initTable d m)) with lifecycle := .init }

/-- The body of `INIT_FAST` (R118). -/
def State.initFastBody (m : Model) (d : Driver) (s : State) : State :=
  let s1 := { s.emitAll m d (initEvents d (initFastTable d m)) with lifecycle := .init }
  (s1.ponSeq m d).pofSeq m d

/-- `TEMP_READ_SEQ(d)` up to its `READ` (R139). -/
def senseEvents (d : Driver) : List Event :=
  optionalWrite d.tempPreUpdate ++ [.cmd d.cTsense, .wait d.idleLevel d.tTemp]

/-- `TEMP_READ_SEQ(d)` (R139). It yields the byte drawn, which is `s.nextAnswer` of the state it starts from: emitting
draws nothing. -/
def State.tempReadSeq (m : Model) (d : Driver) (s : State) : State :=
  (s.emitAll m d (senseEvents d)).emitRead m d

/-- The temperature read of `REFRESH` (R121): its byte is discarded. -/
def State.refreshRead (m : Model) (d : Driver) (s : State) : State :=
  if d.refreshReadsTemp then s.tempReadSeq m d else s

/-- The window reset of `REFRESH` (R122). -/
def State.refreshWindow (m : Model) (d : Driver) (s : State) : State :=
  if d.refreshResetsWindow then s.emitAll m d (fullWindow d m) else s

/-- The body of `REFRESH` (R120). -/
def State.refreshBody (m : Model) (d : Driver) (s : State) : State :=
  let s1 := (s.ponSeq m d).refreshRead m d
  let s2 := s1.emitAll m d [.cmd d.cRefresh, .wait d.idleLevel d.tRefresh]
  (s2.refreshWindow m d).pofSeq m d

end Sys2Proof.Machine
end

