-- ==== Sys2Proof/Machine/Stream.lean ====
section
/-! DEFINITION. The pixel bit-packing / line-order converter (41_pixel_packing.md R99 to R108). -/

namespace Sys2Proof.Machine

/-- The indices `PLANE_BYTES` visits (R100): rows top to bottom, byte-columns left to right. -/
def planeIndices (stride h : Nat) : List Nat :=
  (List.range h).flatMap fun r => (List.range stride).map fun c => c + r * stride

/-- The indices `STREAM_DOUBLE_HEIGHT` visits (R106): `2 * h` passes, the second half over the same rows. -/
def doubleIndices (stride h : Nat) : List Nat :=
  (List.range (2 * h)).flatMap fun i => (List.range stride).map fun c => c + (if i < h then i else i - h) * stride

/-- `MemRead` at each index in turn; `none` if the buffer lacks one (R99, U5). -/
def readBytes (buf : Memory) : List Nat → Option (List Byte)
  | [] => some []
  | i :: is =>
    match buf.read i, readBytes buf is with
    | some b, some bs => some (b :: bs)
    | _, _ => none

/-- The bytes at the indices given, or the filler for each when the plane is absent (R100); an absent plane is not
read. -/
def planeRun (buf : Memory) (present : Bool) (filler : Byte) (is : List Nat) : Option (List Byte) :=
  if present then readBytes buf is else some (is.map fun _ => filler)

/-- `PLANE_BYTES(S, present, filler, stride, h)` (R100). -/
def planeBytes (buf : Memory) (present : Bool) (filler : Byte) (stride h : Nat) : Option (List Byte) :=
  planeRun buf present filler (planeIndices stride h)

/-- `STREAM_SINGLE` (R103). -/
def streamSingle (d : Driver) (m : Model) (blk : Memory) (bp : Bool) (stride h : Nat) : Option (List Event) :=
  (planeBytes blk bp d.fillerBlack stride h).map fun b => [.cmd m.cmdRamBlack, .data b]

/-- The second plane of `STREAM_SEQUENTIAL` (R104, R105): the black source again on a `BW` model, else the colour
plane. The model's colour is read at each call (R156). -/
def secondPlane (d : Driver) (m : Model) (blk col : Memory) (bp cp : Bool) (stride h : Nat) : Option (List Byte) :=
  if m.color = .bw then planeBytes blk bp d.fillerBlack stride h else planeBytes col cp d.fillerColor stride h

/-- `STREAM_SEQUENTIAL` (R104). -/
def streamSequential (d : Driver) (m : Model) (blk col : Memory) (bp cp : Bool) (stride h : Nat) : Option (List Event) :=
  match planeBytes blk bp d.fillerBlack stride h, secondPlane d m blk col bp cp stride h with
  | some b, some c => some [.cmd m.cmdRamBlack, .data b, .cmd m.cmdRamColor, .data c]
  | _, _ => none

/-- `STREAM_DOUBLE_HEIGHT` (R106). -/
def streamDoubleHeight (d : Driver) (m : Model) (blk : Memory) (bp : Bool) (stride h : Nat) : Option (List Event) :=
  (planeRun blk bp d.fillerBlack (doubleIndices stride h)).map fun b => [.cmd m.cmdRamBlack, .data b]

/-- `STREAM(d, m, stride, h)` (R102), with the buffers and their presence bits; `none` when a byte it reads is not in its
buffer. -/
def stream (d : Driver) (m : Model) (blk col : Memory) (bp cp : Bool) (stride h : Nat) : Option (List Event) :=
  match d.planeStrategy with
  | .single => streamSingle d m blk bp stride h
  | .sequential => streamSequential d m blk col bp cp stride h
  | .doubleHeight => streamDoubleHeight d m blk bp stride h

/-- Every buffer marked present holds the `n` bytes R99 asks of it (U5; log 11). -/
def buffersHold (blk col : Memory) (bp cp : Bool) (n : Nat) : Bool :=
  (!bp || blk.holds n) && (!cp || col.holds n)

end Sys2Proof.Machine
end

