-- ==== Sys2Proof/Machine/Image.lean ====
section
/-! DEFINITION. `CLEAR` and `WRITE_IMAGE` (43_image_ops.md). -/

namespace Sys2Proof.Machine

/-- `N`, the bytes of one plane of the whole panel (R109, R129). -/
def panelBytes (m : Model) : Nat := (m.width + 7) / 8 * m.height

/-- The fills of `CLEAR` (R129, R130). -/
def clearEvents (d : Driver) (m : Model) : List Event :=
  match d.planeStrategy with
  | .single => [.fill m.cmdRamBlack d.fillerBlack (panelBytes m)]
  | .sequential =>
    [.fill m.cmdRamBlack d.fillerBlack (panelBytes m), .fill m.cmdRamColor d.fillerColor (panelBytes m)]
  | .doubleHeight => [.fill m.cmdRamBlack d.fillerBlack (2 * panelBytes m)]

/-- The body of `CLEAR` (R129). -/
def State.clearBody (m : Model) (d : Driver) (rf : Bool) (s : State) : State :=
  let s1 := s.emitAll m d (clearEvents d m)
  if rf then s1.refreshBody m d else s1

/-- `CLEAR` (R129). -/
def execClear (rf : Bool) (s : State) : Outcome :=
  withModel s fun m d => ifLegal (legalImage s.lifecycle) (.next (s.clearBody m d rf).finishOk)

/-- `(XA, WA) <- ALIGN(X, W)` (R133, R18). -/
def State.setAligned (xa wa : Nat) (s : State) : State :=
  { s with working := { s.working with xa := BitVec.ofNat 16 xa, wa := BitVec.ofNat 17 wa } }

/-- `STRIDE <- WA / 8` (R133, R18). -/
def State.setStride (stride : Nat) (s : State) : State :=
  { s with working := { s.working with stride := BitVec.ofNat 14 stride } }

/-- `WRITE_IMAGE` after its bounds check (R133): the window and the stream, whole; a short buffer has no meaning (U5). -/
def writeRect (m : Model) (d : Driver) (bp cp : Bool) (xa y wa h : Nat) (s : State) : Outcome :=
  if buffersHold s.blk s.col bp cp (wa / 8 * h) then
    match stream d m s.blk s.col bp cp (wa / 8) h with
    | some es => .next ((s.setStride (wa / 8)).emitAll m d (setWindow d xa y wa h ++ es)).finishOk
    | none => .refused .shortBuffer
  else .refused .shortBuffer

/-- `WRITE_IMAGE`'s bounds check on the aligned rectangle (R133, R88, R134): all or nothing. After the error nothing but the
response latches has changed, `XA` and `WA` neither (R165; log 12). -/
def writeAligned (m : Model) (d : Driver) (bp cp : Bool) (xa y wa h : Nat) (s : State) : Outcome :=
  if (bounds xa y wa h m).1 && (bounds xa y wa h m).2 then writeRect m d bp cp xa y wa h (s.setAligned xa wa)
  else .next (s.raise .boundsError (subBounds (bounds xa y wa h m).1 (bounds xa y wa h m).2))

/-- `WRITE_IMAGE` (R133): bound, lifecycle, operand precondition, bounds, in that order (R166). -/
def execWriteImage (bp cp : Bool) (x y w h : Half) (s : State) : Outcome :=
  withModel s fun m d =>
    ifLegal (legalImage s.lifecycle)
      (if w = 0 ∨ h = 0 then .refused .zeroExtent
       else writeAligned m d bp cp (align x.toNat w.toNat).1 y.toNat (align x.toNat w.toNat).2 h.toNat s)

end Sys2Proof.Machine
end

