-- ==== Sys2Proof/Machine/Power.lean ====
section
/-! DEFINITION. `INIT`, `INIT_FAST`, `REFRESH` and `SLEEP` (42_lifecycle_power.md). -/

namespace Sys2Proof.Machine

/-- `INIT` (R116). -/
def execInit (s : State) : Outcome :=
  withModel s fun m d => ifLegal (legalInit s.cfg s.lifecycle) (.next (s.initBody m d).finishOk)

/-- `INIT_FAST` (R118): the capability check precedes the lifecycle check (R119). -/
def execInitFast (s : State) : Outcome :=
  withModel s fun m d =>
    ifCapable d.hasInitFast s (ifLegal (legalInit s.cfg s.lifecycle) (.next (s.initFastBody m d).finishOk))

/-- `REFRESH` (R120). -/
def execRefresh (s : State) : Outcome :=
  withModel s fun m d => ifLegal (legalImage s.lifecycle) (.next (s.refreshBody m d).finishOk)

/-- The body of `SLEEP` (R124): powers off only if the controller is on. -/
def State.sleepBody (m : Model) (d : Driver) (s : State) : State :=
  let s1 := if s.lifecycle = .pon then s.pofSeq m d else s
  { s1.emitAll m d (cmdWith d.cSleep d.sleepArgs) with lifecycle := .sleep }

/-- `SLEEP` (R124). -/
def execSleep (s : State) : Outcome :=
  withModel s fun m d => ifLegal (legalSleep s.lifecycle) (.next (s.sleepBody m d).finishOk)

end Sys2Proof.Machine
end

