-- ==== Sys2Proof/Machine/Registry.lean ====
section
/-! DEFINITION. `BIND`, `GET_ACTIVE_MODEL`, `LUT_DUMP`, `RAM_STREAM` and the unassigned opcodes (45_registry.md). -/

namespace Sys2Proof.Machine

/-- A model becomes the active one (R25, R147). -/
def State.bindTo (id : Byte) (s : State) : State := { s with activeId := id, bound := true }

/-- `BIND` of an id on an unbound block (R147): an id the catalog lacks is an error; a catalog model whose driver is
missing is an ill-formed `CFG` (U11). -/
def bindLookup (id : Byte) (s : State) : Outcome :=
  match findModel s.cfg id with
  | none => .next (s.raise .configurationError subUnknownModel)
  | some m =>
    match findDriver s.cfg m.driver with
    | none => .refused .noActiveModel
    | some d => .next ((s.bindTo id).initBody m d).finishOk

/-- `BIND` (R147): bound already comes before unknown id (R149, R166). -/
def execBind (id : Byte) (s : State) : Outcome :=
  if s.bound then .next (s.raise .configurationError subAlreadyBound) else bindLookup id s

/-- `GET_ACTIVE_MODEL` (R150): legal in every state. -/
def execGetActiveModel (s : State) : Outcome :=
  if s.bound then .next (s.finishValue s.activeId) else .next s.finishOk

/-- `LUT_DUMP` (R152): the capability is absent on every driver. -/
def execLutDump (s : State) : Outcome :=
  ifBound s (.next (s.raise .unsupportedOperation subCapabilityAbsent))

/-- `RAM_STREAM` (R153): the capability is absent on every driver. -/
def execRamStream (s : State) : Outcome :=
  ifBound s (.next (s.raise .unsupportedOperation subCapabilityAbsent))

/-- An unassigned opcode (R154): an error in every state. -/
def unassignedOpcode (s : State) : Outcome := .next (s.raise .unsupportedOperation subUnassignedOpcode)

end Sys2Proof.Machine
end

