-- ==== Sys2Proof/Machine/Temperature.lean ====
section
/-! DEFINITION. `READ_TEMPERATURE` and `FORCE_TEMPERATURE` (44_temperature.md). -/

namespace Sys2Proof.Machine

/-- `READ_TEMPERATURE` (R140): the byte is whatever the transport answers (R141). -/
def execReadTemperature (s : State) : Outcome :=
  withModel s fun m d =>
    ifLegal (legalTemp s.cfg s.lifecycle) (.next ((s.tempReadSeq m d).finishValue s.nextAnswer))

/-- The events of `FORCE_TEMPERATURE` (R142). -/
def forceEvents (d : Driver) (value : Byte) : List Event :=
  optionalWrite d.forcePreCascade ++ [.cmd d.cTforce, .data [value]]

/-- `FORCE_TEMPERATURE` (R142): every value is accepted. -/
def execForceTemperature (value : Byte) (s : State) : Outcome :=
  withModel s fun m d =>
    ifLegal (legalTemp s.cfg s.lifecycle) (.next (s.emitAll m d (forceEvents d value)).finishOk)

end Sys2Proof.Machine
end

