-- ==== Sys2Proof/Machine/Dispatch.lean ====
section
/-! DEFINITION. One arm per operation of spec/opcode_table.json. -/

namespace Sys2Proof.Machine

def exec (i : Instr) (s : State) : Host.Outcome State Fault Refusal :=
  match i with
  | .bind id => Sys2Proof.Machine.execBind id s
  | .init => Sys2Proof.Machine.execInit s
  | .initFast => Sys2Proof.Machine.execInitFast s
  | .clear rf => Sys2Proof.Machine.execClear rf s
  | .writeImage bp cp x y w h => Sys2Proof.Machine.execWriteImage bp cp x y w h s
  | .refresh => Sys2Proof.Machine.execRefresh s
  | .sleep => Sys2Proof.Machine.execSleep s
  | .readTemperature => Sys2Proof.Machine.execReadTemperature s
  | .forceTemperature value => Sys2Proof.Machine.execForceTemperature value s
  | .getActiveModel => Sys2Proof.Machine.execGetActiveModel s
  | .lutDump => Sys2Proof.Machine.execLutDump s
  | .ramStream => Sys2Proof.Machine.execRamStream s

end Sys2Proof.Machine
end

