-- ==== Sys2Proof/Machine/Port.lean ====
section
/-! DEFINITION. The request port and the host's other actions (70_reset_and_hazards.md R179, R182, R186, R191, R199). -/

namespace Sys2Proof.Machine

/-- An accepted request runs to completion (R199): an assigned operation has its meaning, an unassigned opcode is an
error in every state (R82, R154). -/
def runRequest (q : RequestWord) (s : State) : Outcome :=
  match decode q with
  | .assigned i => exec i (s.accept q)
  | .unassigned _ => unassignedOpcode (s.accept q)

/-- A request word at the request port: refused under an ill-formed `CFG` (R185, U11) and while `BUSY = 1` (R186, U4). -/
def presentRequest (q : RequestWord) (s : State) : Outcome :=
  if cfgOk s.cfg then
    if s.busy then .refused .requestWhileBusy else runRequest q s
  else .refused .illFormedConfig

/-- The host rewrites a buffer: free between operations (R61), no meaning during one (R191, U5). -/
def loadBuffer (s s' : State) : Outcome := if s.busy then .refused .bufferChangedWhileBusy else .next s'

/-- Block reset (R179, R181): every register at its reset value, LOG empty, no event; the configuration, the buffers, what
lies outside the block and the controller stay as they are. -/
def State.blockReset (s : State) : State :=
  { State.resetWith s.cfg with
    blk := s.blk
    col := s.col
    host := s.host
    answers := s.answers
    draws := s.draws
    receiver := s.receiver }

/-- One action of the host. -/
def serve (a : HostAction) (s : State) : Outcome :=
  match a with
  | .request q => presentRequest q s
  | .loadBlack bs => loadBuffer s { s with blk := Memory.ofBytes bs }
  | .loadColor bs => loadBuffer s { s with col := Memory.ofBytes bs }
  | .blockReset => .next s.blockReset

/-- With no action left the block does nothing (R182). -/
def serveNext (s : State) : Outcome :=
  match s.host with
  | [] => .next s
  | a :: rest => serve a { s with host := rest }

/-- The request word of the opcode table's bit numbering, as the host's next action. -/
def State.presentWord (s : State) (nbits w : Nat) : State :=
  { s with host := .request (BitVec.ofNat 96 (w % 2 ^ nbits)) :: s.host }

end Sys2Proof.Machine
end

