-- ==== Sys2Proof/Machine/Assemble.lean ====
section
/-! DEFINITION. Assembling a line of source (30_encoding.md R83, R84) into what the host does with it, and the textual
forms of R73 and R83. -/

namespace Sys2Proof.Machine

/-- The request R83 gives a line's mnemonic and operands, if it is a request. -/
def lineInstr : SourceLine → Option Instr
  | .bind id => some (.bind (BitVec.ofNat 8 id))
  | .init => some .init
  | .initFast => some .initFast
  | .clear rf => some (.clear (rf == 1))
  | .writeImage bp cp x y w h =>
    some (.writeImage (bp == 1) (cp == 1) (BitVec.ofNat 16 x) (BitVec.ofNat 16 y) (BitVec.ofNat 16 w) (BitVec.ofNat 16 h))
  | .refresh => some .refresh
  | .sleep => some .sleep
  | .readTemperature => some .readTemperature
  | .forceTemperature v => some (.forceTemperature (zext8 v))
  | .getActiveModel => some .getActiveModel
  | .lutDump => some .lutDump
  | .ramStream => some .ramStream
  | .black _ | .color _ => none

/-- What a well-formed line makes the host do: present a word, or (a directive of R84, which assembles to nothing) fill a
buffer. -/
def lineAction (l : SourceLine) : Option HostAction :=
  match l with
  | .black bs => some (.loadBlack (bs.map (BitVec.ofNat 8)))
  | .color bs => some (.loadColor (bs.map (BitVec.ofNat 8)))
  | _ => (lineInstr l).map fun i => .request (encode i)

/-- Assemble one line; an operand out of its range is rejected. -/
def assemble (l : SourceLine) : Option HostAction := if l.wf then lineAction l else none

/-- A program (R199): its lines in order, or nothing if one of them is ill formed. -/
def assembleAll : List SourceLine → Option (List HostAction)
  | [] => some []
  | l :: ls =>
    match assemble l, assembleAll ls with
    | some a, some as => some (a :: as)
    | _, _ => none

/-! ### Text -/

/-- One hexadecimal digit, capital. -/
def hexDigit (n : Nat) : String := if n < 10 then toString n else
  if n = 10 then "A" else if n = 11 then "B" else if n = 12 then "C" else if n = 13 then "D" else
  if n = 14 then "E" else "F"

/-- A byte in two hexadecimal digits (R73). -/
def hexByte (b : Byte) : String := hexDigit (b.toNat / 16) ++ hexDigit (b.toNat % 16)

/-- Strings with a separator between them. -/
def joinWith (sep : String) : List String → String
  | [] => ""
  | [t] => t
  | t :: ts => t ++ sep ++ joinWith sep ts

/-- A line level as R73 writes it. -/
def levelText (l : Bool) : String := if l then "1" else "0"

/-- R73's form of an event. -/
def Event.text : Event → String
  | .cmd b => "C(" ++ hexByte b ++ ")"
  | .data bs => "D[" ++ joinWith " " (bs.map hexByte) ++ "]"
  | .read n got => "R(" ++ toString n ++ ")->[" ++ joinWith " " (got.map hexByte) ++ "]"
  | .reset l ms => "RST(" ++ levelText l ++ "," ++ toString ms ++ ")"
  | .wait l ms => "W(" ++ levelText l ++ "," ++ toString ms ++ ")"
  | .fill c b n => "F(" ++ hexByte c ++ "," ++ hexByte b ++ "," ++ toString n ++ ")"

/-- R73's form of an event stream. -/
def logText (es : List Event) : String := joinWith " " (es.map Event.text)

/-- R83's and R84's form of a line. -/
def lineText : SourceLine → String
  | .bind id => "BIND " ++ toString id
  | .init => "INIT"
  | .initFast => "INIT_FAST"
  | .clear rf => "CLEAR " ++ toString rf
  | .writeImage bp cp x y w h => "WRITE_IMAGE " ++ joinWith ", " ([bp, cp, x, y, w, h].map toString)
  | .refresh => "REFRESH"
  | .sleep => "SLEEP"
  | .readTemperature => "READ_TEMPERATURE"
  | .forceTemperature v => "FORCE_TEMPERATURE " ++ toString v
  | .getActiveModel => "GET_ACTIVE_MODEL"
  | .lutDump => "LUT_DUMP"
  | .ramStream => "RAM_STREAM"
  | .black bs => ".black " ++ joinWith " " (bs.map toString)
  | .color bs => ".color " ++ joinWith " " (bs.map toString)

end Sys2Proof.Machine
end

