-- ==== Sys2Proof/Safety.lean ====
section
/-! DEFINITION. What a good state is, in the terms the statements use: the invariants the spec gives the state between
operations. -/

namespace Sys2Proof.Machine

/-- An event of the shape R72 gives it: a `DATA` is never empty (R62), a `READ` yields as many bytes as it asks for. -/
def Event.wf : Event → Bool
  | .data bs => !bs.isEmpty
  | .read n got => decide (1 ≤ n) && got.length == n
  | .cmd _ | .reset _ _ | .wait _ _ | .fill _ _ _ => true

/-- A response the block can present (R28, R163, U14): a value only with `OK`, and on an error a sub-cause of R163's
table. -/
def Response.wf (r : Response) : Bool :=
  match r.result with
  | .ok => r.rvalid || r.rval == 0
  | .configurationError => !r.rvalid && (r.rval == 1 || r.rval == 2 || r.rval == 3)
  | .boundsError => !r.rvalid && (r.rval == 1 || r.rval == 2 || r.rval == 3)
  | .unsupportedOperation => !r.rvalid && (r.rval == 1 || r.rval == 2)

/-- The block is idle (R29, R21, R182): no operation is in progress. -/
def State.Idle (s : State) : Prop := s.busy = false ∧ s.seqPc = 0

/-- R25: bound exactly when the lifecycle has left `UNINIT`. -/
def State.BoundMatchesLifecycle (s : State) : Prop := s.bound = true ↔ s.lifecycle ≠ .uninit

/-- R24: `PON` is never seen between operations. -/
def State.NotPoweredOn (s : State) : Prop := s.lifecycle ≠ .pon

/-- R26: when bound, `M` and `D` exist. -/
def State.ActiveKnown (s : State) : Prop := s.bound = true → s.active.isSome = true

/-- The three spaces held as cells are in canonical form. -/
def State.MemoriesCanonical (s : State) : Prop := s.blk.wf ∧ s.col.wf ∧ s.receiver.cram.wf

/-- Every event of LOG has R72's shape. -/
def State.LogWellFormed (s : State) : Prop := ∀ e ∈ s.log, e.wf = true

/-- Data bytes stand only in the atomic group of a command (R53): every `DATA` comes directly after a `CMD` or another
`DATA`. `afterCmd` says what came before. -/
def groupedFrom : Bool → List Event → Bool
  | _, [] => true
  | afterCmd, .data _ :: es => afterCmd && groupedFrom true es
  | _, .cmd _ :: es => groupedFrom true es
  | _, .read _ _ :: es | _, .reset _ _ :: es | _, .wait _ _ :: es | _, .fill _ _ _ :: es => groupedFrom false es

/-- LOG keeps its atomic groups whole (R53, R187). -/
def State.LogGrouped (s : State) : Prop := groupedFrom false s.log = true

/-- The timeout of every wait in LOG is in the range R9 gives all waits, "100 ms–30 s". -/
def State.WaitsInRange (s : State) : Prop := ∀ level ms, Event.wait level ms ∈ s.log → 100 ≤ ms ∧ ms ≤ 30000

/-- What holds between operations. -/
structure State.Inv (s : State) : Prop where
  idle      : s.Idle
  bound     : s.BoundMatchesLifecycle
  notOn     : s.NotPoweredOn
  active    : s.ActiveKnown
  memories  : s.MemoriesCanonical
  log       : s.LogWellFormed
  grouped   : s.LogGrouped
  waits     : s.WaitsInRange
  response  : s.response.wf = true

end Sys2Proof.Machine
end

