-- ==== Sys2Proof/Certificates/Slice0/Obligations.lean ====
section
/-! DEFINITION. The statements for the provers. The helpers of `Sys2Proof.Spec` transcribe the pseudocode of spec/ as event
lists, apart from the model's own functions, and say once what the whole state is after an operation. -/

namespace Sys2Proof.Spec

open Sys2Proof.Machine

/-! ### The state an operation leaves -/

/-- The whole state after an operation that emitted `evs`, drew `drawn` bytes, left the lifecycle at `l` and answered
`r`: what is not named here is as in `s`. -/
def ended (m : Model) (d : Driver) (evs : List Event) (l : Lifecycle) (drawn : Nat) (r : Response) (s : State) : State :=
  { s with
    lifecycle := l
    log := s.log ++ evs
    receiver := s.receiver.feedAll d m evs
    answers := s.answers.drop drawn
    draws := s.draws + drawn
    response := r
    responses := s.responses ++ [r.word]
    busy := false
    seqPc := 0 }

/-- The whole state after an operation that emitted nothing and moved nothing (R164): the response, and the block idle. -/
def answered (r : Response) (s : State) : State :=
  { s with response := r, responses := s.responses ++ [r.word], busy := false, seqPc := 0 }

/-- The response of an operation that returns no value (R28). -/
def okResponse : Response := ⟨.ok, false, 0⟩

/-- A model is bound, and `M = m`, `D = d` (R26). -/
def Bound (s : State) (m : Model) (d : Driver) : Prop := s.bound = true ∧ s.active = some (m, d)

/-- R112's `ok` cells of `CLEAR`, `WRITE_IMAGE`, `REFRESH`. -/
def ImageCell (s : State) : Prop := s.lifecycle = .init ∨ s.lifecycle = .poff

/-- R112's `ok` cells of `INIT`, `INIT_FAST`. -/
def InitCell (s : State) : Prop :=
  s.lifecycle = .init ∨ s.lifecycle = .poff ∨ (s.lifecycle = .sleep ∧ s.cfg.wakeByInit = true)

/-- R112's `ok` cells of `SLEEP`, the internal one among them. -/
def SleepCell (s : State) : Prop := s.lifecycle = .init ∨ s.lifecycle = .pon ∨ s.lifecycle = .poff

/-- R112's `ok` cells of the temperature operations, the internal one among them. -/
def TempCell (s : State) : Prop :=
  s.lifecycle = .init ∨ s.lifecycle = .pon ∨ (s.lifecycle = .poff ∧ s.cfg.tempOkInPoff = true)

/-! ### Event lists, from the pseudocode -/

/-- `PON_SEQ(d)` (R113). -/
def pon (d : Driver) : List Event := [.cmd d.cPon, .wait d.idleLevel d.tPon]

/-- `POF_SEQ(d)` (R114). -/
def pof (d : Driver) : List Event := [.cmd d.cPoff, .wait d.idleLevel d.tPoff]

/-- The loop over an init table (R116). -/
def tableWrites (ws : List InitWrite) : List Event :=
  ws.flatMap fun w => if w.args = [] then [.cmd w.cmd] else [.cmd w.cmd, .data w.args]

/-- Reset pulse and table (R115, R116, R118). -/
def initSeq (d : Driver) (ws : List InitWrite) : List Event := .reset d.rstLevel d.rstMs :: tableWrites ws

/-- An optional command with one byte (R139, R142). -/
def optWrite : Option (Byte × Byte) → List Event
  | some p => [.cmd p.1, .data [p.2]]
  | none => []

/-- `TEMP_READ_SEQ(d)` (R139) when the transport answers `b`. -/
def tempRead (d : Driver) (b : Byte) : List Event :=
  optWrite d.tempPreUpdate ++ [.cmd d.cTsense, .wait d.idleLevel d.tTemp, .read 1 [b]]

/-- `REFRESH` (R120 to R122) when the transport answers `b`. -/
def refreshSeq (d : Driver) (m : Model) (b : Byte) : List Event :=
  pon d ++ (if d.refreshReadsTemp then tempRead d b else []) ++ [.cmd d.cRefresh, .wait d.idleLevel d.tRefresh]
    ++ (if d.refreshResetsWindow then setWindow d 0 0 m.width m.height else []) ++ pof d

/-- How many bytes `REFRESH` draws (R121). -/
def refreshDrawn (d : Driver) : Nat := if d.refreshReadsTemp then 1 else 0

/-- `N` of R129. -/
def planeSize (m : Model) : Nat := ((m.width + 7) / 8) * m.height

/-- The fills of `CLEAR` (R129). -/
def fills (d : Driver) (m : Model) : List Event :=
  match d.planeStrategy with
  | .single => [.fill m.cmdRamBlack d.fillerBlack (planeSize m)]
  | .sequential => [.fill m.cmdRamBlack d.fillerBlack (planeSize m), .fill m.cmdRamColor d.fillerColor (planeSize m)]
  | .doubleHeight => [.fill m.cmdRamBlack d.fillerBlack (2 * planeSize m)]

/-- The first `n` bytes of a plane: the buffer's where it is present, the filler where it is not (R100). -/
def plane (buf : Memory) (present : Bool) (filler : Byte) (n : Nat) : List Byte :=
  (List.range n).map fun i => if present then (buf.read i).getD 0 else filler

/-- A buffer marked present holds its first `n` bytes (R99). -/
def Holds (buf : Memory) (present : Bool) (n : Nat) : Prop := present = true → ∀ i < n, (buf.read i).isSome = true

/-- `STREAM` (R102 to R106) of `n` bytes a plane. -/
def streamed (d : Driver) (m : Model) (blk col : Memory) (bp cp : Bool) (n : Nat) : List Event :=
  match d.planeStrategy with
  | .single => [.cmd m.cmdRamBlack, .data (plane blk bp d.fillerBlack n)]
  | .sequential =>
    [.cmd m.cmdRamBlack, .data (plane blk bp d.fillerBlack n), .cmd m.cmdRamColor,
     .data (if m.color = .bw then plane blk bp d.fillerBlack n else plane col cp d.fillerColor n)]
  | .doubleHeight => [.cmd m.cmdRamBlack, .data (plane blk bp d.fillerBlack n ++ plane blk bp d.fillerBlack n)]

/-- The aligned x of R87. -/
def alignedX (x : Half) : Nat := x.toNat - x.toNat % 8

/-- The aligned width of R87. -/
def alignedW (w : Half) : Nat := (w.toNat + 7) / 8 * 8

/-- The rectangle is inside the panel (R88). -/
def Inside (m : Model) (x y w h : Half) : Prop :=
  alignedX x + alignedW w ≤ m.width ∧ y.toNat + h.toNat ≤ m.height

/-! ### The far side -/

/-- The command codes the receiver tells apart are apart: the two planes where there are two, and the addressing commands from the planes and
from one another. (The spec does not say so; log 15.) -/
def CodesApart (d : Driver) (m : Model) : Prop :=
  (d.planeStrategy = .sequential → m.cmdRamBlack ≠ m.cmdRamColor) ∧
  match d.addrStyle with
  | .window => isRamCmd d m d.cWindow = false
  | .counter =>
    isRamCmd d m d.cXrange = false ∧ isRamCmd d m d.cYrange = false ∧ isRamCmd d m d.cXcount = false ∧
    isRamCmd d m d.cYcount = false ∧
    d.cXrange ≠ d.cYrange ∧ d.cXrange ≠ d.cXcount ∧ d.cXrange ≠ d.cYcount ∧ d.cYrange ≠ d.cXcount ∧
    d.cYrange ≠ d.cYcount ∧ d.cXcount ≠ d.cYcount

/-- The window ends in one of the 256 byte-columns of a counter-style controller (R7 gives its panels no more). -/
def EndColumnFits (d : Driver) (x w : Nat) : Prop := d.addrStyle = .counter → (x + w - 1) / 8 < 256

/-- A window inside a plane of the panel (R43): `(width + 7) / 8` byte-columns by `height` rows, doubled for the 2-bit
controller. -/
def InsidePlane (d : Driver) (m : Model) (cols rows : Span) : Prop :=
  0 < cols.count ∧ 0 < rows.count ∧ cols.first + cols.count ≤ (m.width + 7) / 8 ∧
    rows.first + rows.count ≤ (if d.planeStrategy = .doubleHeight then 2 * m.height else m.height)

/-- The commands that open a RAM plane (R43): the black plane's, and on a dual-plane controller the colour plane's. -/
def OpensPlane (d : Driver) (m : Model) (p : Byte) : Prop :=
  p = m.cmdRamBlack ∨ (d.planeStrategy = .sequential ∧ p = m.cmdRamColor)

/-- A command is one of the driver's addressing commands. -/
def isAddressing (d : Driver) (c : Byte) : Bool :=
  match d.addrStyle with
  | .window => c == d.cWindow
  | .counter => c == d.cXrange || c == d.cYrange || c == d.cXcount || c == d.cYcount

/-- A `READ` with its bytes left out. -/
def hideRead : Event → Event
  | .read n _ => .read n []
  | e => e

/-- The codes of LIFECYCLE (R22). -/
def lifecycleCode : Lifecycle → BitVec 3
  | .uninit => 0
  | .init => 1
  | .pon => 2
  | .poff => 3
  | .sleep => 4

/-- The codes of RESULT (R71). -/
def resultCode : ResultCode → BitVec 2
  | .ok => 0
  | .configurationError => 1
  | .boundsError => 2
  | .unsupportedOperation => 3

/-- The operand latches a request word loads (R17, R64). -/
def latched (q : RequestWord) : Latches where
  op := q.extractLsb' 88 8
  flags := q.extractLsb' 80 8
  val := q.extractLsb' 72 8
  x := q.extractLsb' 48 16
  y := q.extractLsb' 32 16
  w := q.extractLsb' 16 16
  h := q.extractLsb' 0 16

/-- The bits of a request word that R65 gives the operation of opcode `op`: `OP` and the operands used. -/
def usedBits (op : Byte) : RequestWord :=
  if op = 0x01 then 0xFF00FF000000000000000000
  else if op = 0x04 then 0xFF0400000000000000000000
  else if op = 0x05 then 0xFF030000FFFFFFFFFFFFFFFF
  else if op = 0x09 then 0xFF00FF000000000000000000
  else 0xFF0000000000000000000000

end Sys2Proof.Spec

open Sys2Proof Sys2Proof.Machine Sys2Proof.Spec

/-! ### Encoding -/

/-- Decoding an encoded instruction gives it back, every operand at every value (R64, R65, R83). -/
def Obligations.DecodeAfterEncode : Prop := ∀ i : Instr, decode (encode i) = .assigned i

/-- Decoding is total: a word is one of the twelve operations, by its opcode alone, or unassigned (R82, R78, R63). -/
def Obligations.DecodeTotalByOpcode : Prop :=
  ∀ q : RequestWord,
    (1 ≤ (q.extractLsb' 88 8).toNat ∧ (q.extractLsb' 88 8).toNat ≤ 12 →
      ∃ i, decode q = .assigned i ∧ opcode i = q.extractLsb' 88 8) ∧
    (¬(1 ≤ (q.extractLsb' 88 8).toNat ∧ (q.extractLsb' 88 8).toNat ≤ 12) →
      decode q = .unassigned (q.extractLsb' 88 8))

/-- Bits an operation does not use do not change what a word decodes to (R69). -/
def Obligations.DecodeIgnoresUnusedBits : Prop :=
  ∀ q q' : RequestWord, q &&& usedBits (q.extractLsb' 88 8) = q' &&& usedBits (q.extractLsb' 88 8) →
    decode q = decode q'

/-- Words written out in 30_encoding.md R86 and 95_test_vectors.md 3.1 decode to their operations. -/
def Obligations.DecodeWrittenOutWords : Prop :=
  decode 0x010002000000000000000000 = .assigned (.bind 2) ∧
  decode 0x040400000000000000000000 = .assigned (.clear true) ∧
  decode 0x04FB00000000000000000000 = .assigned (.clear false) ∧
  decode 0x050100000186000000140010 = .assigned (.writeImage true false 390 0 20 16) ∧
  decode 0x05030000000D0102000B0002 = .assigned (.writeImage true true 13 258 11 2) ∧
  decode 0x06FFABCD123456789ABCDEF0 = .assigned .refresh ∧
  decode 0x0900FB000000000000000000 = .assigned (.forceTemperature 0xFB) ∧
  decode 0x0D0000000000000000000000 = .unassigned 0x0D

/-- A temperature from -128 to 127 assembles to its two's complement byte, which denotes it again (R12, R67, R83). -/
def Obligations.TemperatureByteRoundTrip : Prop :=
  ∀ v : Int, -128 ≤ v → v ≤ 127 →
    assemble (.forceTemperature v) = some (.request (encode (.forceTemperature (zext8 v)))) ∧ sext8 (zext8 v) = v

/-! ### The words the host reads -/

/-- STATUS, field by field: LIFECYCLE by its code (R22: UNINIT 0, INIT 1, PON 2, POFF 3, SLEEP 4) in bits 2:0, BOUND in bit 3,
BUSY in bit 4, zero in bits 7:5, ACTIVE_ID in bits 15:8, zero there while unbound (R27). -/
def Obligations.StatusFields : Prop :=
  ∀ s : State,
    s.status.extractLsb' 0 3 = lifecycleCode s.lifecycle ∧
    s.status.getLsbD 3 = s.bound ∧
    s.status.getLsbD 4 = s.busy ∧
    s.status.extractLsb' 5 3 = 0 ∧
    s.status.extractLsb' 8 8 = (if s.bound then s.activeId else 0)

/-- Every operation that completes presents its response word, and the word holds the response latches (R70), RESULT by its
code (R71: OK 0, ConfigurationError 1, BoundsError 2, UnsupportedOperation 3). -/
def Obligations.ResponsePresented : Prop :=
  ∀ (i : Instr) (s t : State), exec i s = .next t →
    t.responses = s.responses ++ [t.rsp] ∧
    t.rsp.extractLsb' 9 2 = resultCode t.response.result ∧
    t.rsp.getLsbD 8 = t.response.rvalid ∧
    t.rsp.extractLsb' 0 8 = t.response.rval

/-! ### The step -/

/-- A step runs the decoded instruction: the request port takes the host's next word, loads the latches from its fields, sets
BUSY and SEQ_PC, and runs the operation (R17, R29, R64, R199). -/
def Obligations.StepRunsDecodedRequest : Prop :=
  ∀ (s : State) (q : RequestWord) (rest : List HostAction) (i : Instr),
    s.host = .request q :: rest → cfgOk s.cfg = true → s.busy = false → decode q = .assigned i →
    step s = exec i
      { s with
        host := rest
        latches := latched q
        busy := true
        seqPc := 0 }

/-- An accepted word with an unassigned opcode ends with `UnsupportedOperation (UNASSIGNED_OPCODE)`, bound or not and in
every lifecycle state; it emits nothing and changes nothing but the response and the operand latches, which every accepted
request loads (R154, R79, R17). -/
def Obligations.UnassignedOpcodeAnswersUnsupported : Prop :=
  ∀ (s : State) (q : RequestWord) (rest : List HostAction) (op : Byte),
    s.host = .request q :: rest → cfgOk s.cfg = true → s.busy = false → decode q = .unassigned op →
    step s = .next (answered ⟨.unsupportedOperation, false, 0x01⟩ { s with host := rest, latches := latched q })

/-- A request while `BUSY = 1`, a request under an ill-formed `CFG`, and a buffer rewritten while `BUSY = 1` have no meaning
(R186, R185, R191). -/
def Obligations.PortRefusals : Prop :=
  ∀ (s : State) (a : HostAction) (rest : List HostAction), s.host = a :: rest →
    (∀ q, a = .request q → cfgOk s.cfg = false → step s = .refused .illFormedConfig) ∧
    (∀ q, a = .request q → cfgOk s.cfg = true → s.busy = true → step s = .refused .requestWhileBusy) ∧
    (∀ bs, a = .loadBlack bs → s.busy = true → step s = .refused .bufferChangedWhileBusy) ∧
    (∀ bs, a = .loadColor bs → s.busy = true → step s = .refused .bufferChangedWhileBusy)

/-- Between operations the host rewrites a buffer freely; the bytes from index 0 are the ones given, and nothing else
changes (R61, R84). -/
def Obligations.HostFillsBuffers : Prop :=
  ∀ (s : State) (bs : List Byte) (rest : List HostAction), s.busy = false →
    (s.host = .loadBlack bs :: rest →
      ∃ t, step s = .next t ∧ (∀ i, t.blk.read i = bs[i]?) ∧ t = { s with host := rest, blk := t.blk }) ∧
    (s.host = .loadColor bs :: rest →
      ∃ t, step s = .next t ∧ (∀ i, t.col.read i = bs[i]?) ∧ t = { s with host := rest, col := t.col })

/-- Block reset puts the registers R35 gives a reset value at it and empties LOG, emits no event and leaves the controller
alone; the values of R35's unspecified registers are the model's (log 5) and are not stated (R179, R181, R35). -/
def Obligations.BlockResetRestoresRegisters : Prop :=
  ∀ (s : State) (rest : List HostAction), s.host = .blockReset :: rest →
    ∃ t, step s = .next t ∧ t.lifecycle = .uninit ∧ t.bound = false ∧ t.response = ⟨.ok, false, 0⟩ ∧ t.busy = false ∧
      t.seqPc = 0 ∧ t.log = [] ∧ t.status = 0 ∧ t.receiver = s.receiver ∧ t.cfg = s.cfg ∧ t.blk = s.blk ∧ t.col = s.col ∧
      t.host = rest ∧ t.answers = s.answers

/-- The reset state, under every configuration: R35's given values, and the invariant holds (R35, R180). -/
def Obligations.ResetMeetsInvariant : Prop :=
  ∀ cfg : Cfg, (State.resetWith cfg).Inv ∧ (State.resetWith cfg).lifecycle = .uninit ∧
    (State.resetWith cfg).bound = false ∧ (State.resetWith cfg).response = ⟨.ok, false, 0⟩ ∧
    (State.resetWith cfg).log = [] ∧ (State.resetWith cfg).status = 0

/-- Every step keeps the invariant: idle between operations, bound exactly when out of `UNINIT`, never `PON`, the active
model in the catalog, memories canonical, every event of LOG of R72's shape, atomic groups whole, every wait's timeout in
R9's range, a legal response (R24, R25, R53, R62, R9, R28). -/
def Obligations.StepKeepsInvariant : Prop := ∀ s t : State, s.Inv → step s = .next t → t.Inv

/-- LOG is append-only: every step but a block reset only adds to it (R30). -/
def Obligations.LogIsAppendOnly : Prop :=
  ∀ s t : State, step s = .next t → (∃ es, t.log = s.log ++ es) ∨ (∃ rest, s.host = .blockReset :: rest ∧ t.log = [])

/-! ### What each operation does: the whole state after it -/

/-- `BIND` of a catalog id on an unbound block (R147): binds, emits the body of `INIT`, ends in `INIT` with `OK`. -/
def Obligations.BindBindsAndInitialises : Prop :=
  ∀ (s : State) (id : Byte) (m : Model) (d : Driver),
    s.bound = false → findModelDriver s.cfg id = some (m, d) →
    exec (.bind id) s =
      .next (ended m d (initSeq d (initTable d m)) .init 0 okResponse { s with activeId := id, bound := true })

/-- A `BIND` issued when `BOUND = 1` is rejected whatever the id; nothing is emitted and the model stays bound (R149). -/
def Obligations.BindTwiceRejected : Prop :=
  ∀ (s : State) (id : Byte), s.bound = true →
    exec (.bind id) s = .next (answered ⟨.configurationError, false, 0x03⟩ s)

/-- `BIND` of an id the catalog does not hold ends with `UNKNOWN_MODEL`; nothing is emitted and nothing is bound (R147,
R148). -/
def Obligations.BindUnknownIdRejected : Prop :=
  ∀ (s : State) (id : Byte), s.bound = false → (∀ m ∈ s.cfg.catalog, m.id ≠ id) →
    exec (.bind id) s = .next (answered ⟨.configurationError, false, 0x01⟩ s)

/-- The lookup finds the entry with the id and its driver, and no other (R6, R26, R148). -/
def Obligations.LookupFindsTheCatalogEntry : Prop :=
  ∀ (cfg : Cfg) (id : Byte) (m : Model) (d : Driver), cfgOk cfg = true →
    (findModelDriver cfg id = some (m, d) ↔ m ∈ cfg.catalog ∧ m.id = id ∧ (m.driver, d) ∈ cfg.drivers)

/-- Under a well-formed `CFG` the init table of a catalog model has five entries and is the one its driver holds for the
model's width, height and colour; where the driver has fast initialisation, the fast table is the one it holds for the model
(R117, R8, R9). -/
def Obligations.InitTableIsTheGeometrys : Prop :=
  ∀ (cfg : Cfg) (id : Byte) (m : Model) (d : Driver), cfgOk cfg = true → findModelDriver cfg id = some (m, d) →
    (initTable d m).length = 5 ∧
    (∃ t ∈ d.initTables, t.width = m.width ∧ t.height = m.height ∧ t.color = m.color ∧ t.writes = initTable d m) ∧
    (d.hasInitFast = true → ∃ t ∈ d.initFastTables, t.model = m ∧ t.writes = initFastTable d m)

/-- `INIT` (R116): the reset pulse, then each table write, and `LIFECYCLE = INIT`. -/
def Obligations.InitRunsItsTable : Prop :=
  ∀ (s : State) (m : Model) (d : Driver), Bound s m d → InitCell s →
    exec .init s = .next (ended m d (initSeq d (initTable d m)) .init 0 okResponse s)

/-- `INIT_FAST` where the driver has it (R118): the fast table and one power bracket, ending in `POFF`. -/
def Obligations.InitFastRunsItsTableAndBracket : Prop :=
  ∀ (s : State) (m : Model) (d : Driver), Bound s m d → d.hasInitFast = true → InitCell s →
    exec .initFast s = .next (ended m d (initSeq d (initFastTable d m) ++ pon d ++ pof d) .poff 0 okResponse s)

/-- `INIT_FAST` on a driver without it ends with `CAPABILITY_ABSENT` in every lifecycle state, `SLEEP` too; nothing is
emitted and LIFECYCLE stays (R119). -/
def Obligations.InitFastAbsentAnswersUnsupported : Prop :=
  ∀ (s : State) (m : Model) (d : Driver), Bound s m d → d.hasInitFast = false →
    exec .initFast s = .next (answered ⟨.unsupportedOperation, false, 0x02⟩ s)

/-- `CLEAR` (R129, R130): the fills, and with `RF = 1` the events of one `REFRESH`. -/
def Obligations.ClearFillsThenMayRefresh : Prop :=
  ∀ (s : State) (m : Model) (d : Driver), Bound s m d → ImageCell s →
    exec (.clear false) s = .next (ended m d (fills d m) s.lifecycle 0 okResponse s) ∧
    exec (.clear true) s =
      .next (ended m d (fills d m ++ refreshSeq d m s.nextAnswer) .poff (refreshDrawn d) okResponse s)

/-- `REFRESH` (R120 to R122): the bracket, with the temperature read and the window reset where the driver has them. -/
def Obligations.RefreshRunsItsBracket : Prop :=
  ∀ (s : State) (m : Model) (d : Driver), Bound s m d → ImageCell s →
    exec .refresh s = .next (ended m d (refreshSeq d m s.nextAnswer) .poff (refreshDrawn d) okResponse s)

/-- `SLEEP` (R124): powers off only when on, then the deep-sleep command with its arguments. -/
def Obligations.SleepSendsDeepSleep : Prop :=
  ∀ (s : State) (m : Model) (d : Driver), Bound s m d → SleepCell s →
    exec .sleep s =
      .next (ended m d
        ((if s.lifecycle = .pon then pof d else []) ++
          (if d.sleepArgs = [] then [.cmd d.cSleep] else [.cmd d.cSleep, .data d.sleepArgs]))
        .sleep 0 okResponse s)

/-- `READ_TEMPERATURE` (R140, R141): the byte is the transport's answer, whatever it is, and is the response value. -/
def Obligations.ReadTemperatureReturnsTheAnswer : Prop :=
  ∀ (s : State) (m : Model) (d : Driver), Bound s m d → TempCell s →
    exec .readTemperature s =
      .next (ended m d (tempRead d s.nextAnswer) s.lifecycle 1 ⟨.ok, true, s.nextAnswer⟩ s) ∧
    (∀ b rest, s.answers = b :: rest → s.nextAnswer = b)

/-- `FORCE_TEMPERATURE` (R142): every value is accepted and sent unchanged. -/
def Obligations.ForceTemperatureSendsTheByte : Prop :=
  ∀ (s : State) (m : Model) (d : Driver) (v : Byte), Bound s m d → TempCell s →
    exec (.forceTemperature v) s =
      .next (ended m d (optWrite d.forcePreCascade ++ [.cmd d.cTforce, .data [v]]) s.lifecycle 0 okResponse s)

/-- `GET_ACTIVE_MODEL` (R150), in every state: `OK` with the bound id as the value, or `OK` without a value when unbound; it
emits nothing and changes nothing but the response. -/
def Obligations.GetActiveModelAnswers : Prop :=
  ∀ s : State,
    (s.bound = true → exec .getActiveModel s = .next (answered ⟨.ok, true, s.activeId⟩ s)) ∧
    (s.bound = false → exec .getActiveModel s = .next (answered ⟨.ok, false, 0⟩ s))

/-- `LUT_DUMP` and `RAM_STREAM` (R152, R153) end with `NOT_BOUND` when unbound and with `CAPABILITY_ABSENT` when bound, and
change nothing but the response. -/
def Obligations.NamedOnlyOperationsAnswerErrors : Prop :=
  ∀ s : State, ∀ i, i = Instr.lutDump ∨ i = Instr.ramStream →
    (s.bound = false → exec i s = .next (answered ⟨.configurationError, false, 0x02⟩ s)) ∧
    (s.bound = true → exec i s = .next (answered ⟨.unsupportedOperation, false, 0x02⟩ s))

/-- Before a `BIND` every operation but `BIND` and `GET_ACTIVE_MODEL` ends with `NOT_BOUND`, whatever its operands and the
lifecycle (R158, R183, R166). -/
def Obligations.NotBoundComesFirst : Prop :=
  ∀ (s : State) (i : Instr), s.bound = false → (∀ id, i ≠ .bind id) → i ≠ .getActiveModel →
    exec i s = .next (answered ⟨.configurationError, false, 0x02⟩ s)

/-- `WRITE_IMAGE` of a rectangle inside the panel (R133, R99 to R106): the window, then the stream of each strategy, with
the working registers left at the aligned values. -/
def Obligations.WriteImageSendsWindowAndStream : Prop :=
  ∀ (s : State) (m : Model) (d : Driver) (bp cp : Bool) (x y w h : Half),
    Bound s m d → ImageCell s → w ≠ 0 → h ≠ 0 → Inside m x y w h →
    Holds s.blk bp (alignedW w / 8 * h.toNat) → Holds s.col cp (alignedW w / 8 * h.toNat) →
    exec (.writeImage bp cp x y w h) s =
      .next (ended m d
        (setWindow d (alignedX x) y.toNat (alignedW w) h.toNat ++
          streamed d m s.blk s.col bp cp (alignedW w / 8 * h.toNat))
        s.lifecycle 0 okResponse
        { s with
          working :=
            { xa := BitVec.ofNat 16 (alignedX x), wa := BitVec.ofNat 17 (alignedW w),
              stride := BitVec.ofNat 14 (alignedW w / 8) } })

/-- `WRITE_IMAGE` of a rectangle that exceeds the panel (R134, R159): `BoundsError` with its sub-cause, no event, whatever
the buffers hold, and nothing changed but the response, the working registers neither (R165; log 12). -/
def Obligations.WriteImageOutOfBoundsRejected : Prop :=
  ∀ (s : State) (m : Model) (d : Driver) (bp cp : Bool) (x y w h : Half),
    Bound s m d → ImageCell s → w ≠ 0 → h ≠ 0 → ¬Inside m x y w h →
    exec (.writeImage bp cp x y w h) s =
      .next (answered
        ⟨.boundsError, false,
          BitVec.ofNat 8 ((if alignedX x + alignedW w ≤ m.width then 0 else 1) +
            (if y.toNat + h.toNat ≤ m.height then 0 else 2))⟩
        s)

/-- `WRITE_IMAGE`'s refusals: a zero extent (before the bounds check, R166), and a present buffer too short for a rectangle
inside the panel (R133, U3, R99, U5). That a short colour buffer is refused also where the strategy or a `BW` model ignores
the plane (R108, R196) is the model's reading of U5 (DEDUCED, log 11). -/
def Obligations.WriteImageRefusals : Prop :=
  ∀ (s : State) (m : Model) (d : Driver) (bp cp : Bool) (x y w h : Half), Bound s m d → ImageCell s →
    (w = 0 ∨ h = 0 → exec (.writeImage bp cp x y w h) s = .refused .zeroExtent) ∧
    (w ≠ 0 → h ≠ 0 → Inside m x y w h →
      ¬(Holds s.blk bp (alignedW w / 8 * h.toNat) ∧ Holds s.col cp (alignedW w / 8 * h.toNat)) →
      exec (.writeImage bp cp x y w h) s = .refused .shortBuffer)

/-! ### Rules about all operations -/

/-- The refuse cells of the legality table are refused (R112, R111). The statement also takes in states no run reaches, where
R112 prints no refuse and the refusal is the model's choice: the n/a cells of the `PON` column (log 9), and a bound block
in `UNINIT` (log 10). -/
def Obligations.RefuseCells : Prop :=
  ∀ (s : State) (m : Model) (d : Driver), Bound s m d →
    (¬InitCell s → exec .init s = .refused .lifecycleCell) ∧
    (¬InitCell s → d.hasInitFast = true → exec .initFast s = .refused .lifecycleCell) ∧
    (¬ImageCell s → exec .refresh s = .refused .lifecycleCell ∧ (∀ rf, exec (.clear rf) s = .refused .lifecycleCell) ∧
      ∀ bp cp x y w h, exec (.writeImage bp cp x y w h) s = .refused .lifecycleCell) ∧
    (¬SleepCell s → exec .sleep s = .refused .lifecycleCell) ∧
    (¬TempCell s → exec .readTemperature s = .refused .lifecycleCell ∧
      ∀ v, exec (.forceTemperature v) s = .refused .lifecycleCell)

/-- No operation stops for any other reason: in a bound state with a known model the only refusals are a refuse cell, a
zero extent and a short buffer; unbound, under a well-formed `CFG`, there is none (R178, R165). -/
def Obligations.NothingElseStops : Prop :=
  ∀ (i : Instr) (s : State) (r : Refusal), exec i s = .refused r →
    (s.bound = true → ∀ m d, s.active = some (m, d) →
      r = .lifecycleCell ∨
        ∃ bp cp x y w h, i = .writeImage bp cp x y w h ∧ (r = .zeroExtent ∨ r = .shortBuffer)) ∧
    (s.bound = false → cfgOk s.cfg = false)

/-- The lifecycle at the end of each operation that completes with `OK` (R126), and unchanged after an error (R164). -/
def Obligations.LifecycleAtTheEnd : Prop :=
  ∀ (i : Instr) (s t : State), exec i s = .next t →
    (t.response.result ≠ .ok → t.lifecycle = s.lifecycle) ∧
    (t.response.result = .ok →
      t.lifecycle =
        match i with
        | .bind _ => .init
        | .init => .init
        | .initFast => .poff
        | .clear false => s.lifecycle
        | .clear true => .poff
        | .writeImage .. => s.lifecycle
        | .refresh => .poff
        | .sleep => .sleep
        | .readTemperature => s.lifecycle
        | .forceTemperature _ => s.lifecycle
        | .getActiveModel => s.lifecycle
        | .lutDump => s.lifecycle
        | .ramStream => s.lifecycle)

/-- Errors are precise: after one every field of the state, the working registers among them, is as before but for the
response, its record and the block's being idle; the response holds no value (R164, R165). -/
def Obligations.ErrorsArePrecise : Prop :=
  ∀ (i : Instr) (s t : State), exec i s = .next t → t.response.result ≠ .ok →
    t = answered t.response s ∧ t.response.rvalid = false

/-- BOUND goes from 0 to 1 only in a successful `BIND`, never back, and ACTIVE_ID is written only there (R25). -/
def Obligations.BoundChangesOnlyInBind : Prop :=
  ∀ (i : Instr) (s t : State), exec i s = .next t →
    (t.bound = s.bound ∧ t.activeId = s.activeId) ∨
      ∃ id, i = .bind id ∧ s.bound = false ∧ t.bound = true ∧ t.activeId = id ∧ t.response.result = .ok

/-- `RVALID = 1` only for a successful `READ_TEMPERATURE` and for `GET_ACTIVE_MODEL` with a model bound; an error's RVAL is
one of R163's sub-causes, and without value or error RVAL is 0 (R28, R163). -/
def Obligations.ResponseValueOnlyWhereGiven : Prop :=
  ∀ (i : Instr) (s t : State), exec i s = .next t →
    t.response.wf = true ∧
    (t.response.rvalid = true ↔
      (i = .readTemperature ∧ t.response.result = .ok) ∨ (i = .getActiveModel ∧ s.bound = true))

/-- The frame of every operation: no byte of BLK or COL changes, nor `CFG`, the operand latches, or what the host will do;
the working registers change only in `WRITE_IMAGE`; the block ends idle (R45, R19, R36). -/
def Obligations.FrameOfEveryOperation : Prop :=
  ∀ (i : Instr) (s t : State), exec i s = .next t →
    (∀ a, t.blk.read a = s.blk.read a) ∧ (∀ a, t.col.read a = s.col.read a) ∧ t.cfg = s.cfg ∧ t.latches = s.latches ∧
    t.host = s.host ∧ ((∀ bp cp x y w h, i ≠ .writeImage bp cp x y w h) → t.working = s.working) ∧
    t.busy = false ∧ t.seqPc = 0

/-- No branch depends on a byte read: two runs that differ only in what the transport answers stop alike or emit the same
events, read bytes aside, and agree on every register but RVAL of `READ_TEMPERATURE` (R127, R58). -/
def Obligations.ReadBytesDoNotSteer : Prop :=
  ∀ (i : Instr) (s : State) (answers : List Byte) (draws : Nat),
    match exec i s, exec i { s with answers := answers, draws := draws } with
    | .next t, .next u =>
      u.log.map hideRead = t.log.map hideRead ∧ u.lifecycle = t.lifecycle ∧ u.bound = t.bound ∧
      u.activeId = t.activeId ∧ u.working = t.working ∧ u.response.result = t.response.result ∧
      u.response.rvalid = t.response.rvalid ∧ (i ≠ .readTemperature → u.response.rval = t.response.rval) ∧
      u.receiver = t.receiver ∧ u.latches = t.latches ∧ u.busy = t.busy ∧ u.seqPc = t.seqPc
    | .refused r, .refused r' => r = r'
    | _, _ => False

/-- `SLEEP` is terminal: without `WAKE_BY_INIT`, a bound block in `SLEEP` refuses an operation or answers it without an event
and stays in `SLEEP` (R193). -/
def Obligations.SleepIsTerminal : Prop :=
  ∀ (i : Instr) (s : State) (m : Model) (d : Driver), Bound s m d → s.lifecycle = .sleep → s.cfg.wakeByInit = false →
    exec i s = .refused .lifecycleCell ∨ ∃ t, exec i s = .next t ∧ t.lifecycle = .sleep ∧ t.log = s.log

/-- `CLEAR 1` emits the events and reaches the lifecycle of `CLEAR 0` followed by `REFRESH` (R85 a, R131). -/
def Obligations.ClearWithRefreshIsClearThenRefresh : Prop :=
  ∀ (s : State) (m : Model) (d : Driver), Bound s m d → ImageCell s →
    ∃ t u v, exec (.clear true) s = .next t ∧ exec (.clear false) s = .next u ∧ exec .refresh u = .next v ∧
      t.log = v.log ∧ t.lifecycle = v.lifecycle ∧ t.receiver = v.receiver ∧ t.answers = v.answers ∧ t.draws = v.draws ∧
      t.response = v.response ∧ u.lifecycle = s.lifecycle ∧
      ∃ fs, u.log = s.log ++ fs ∧ ∀ e ∈ fs, ∃ c b n, e = .fill c b n

/-- A successful `BIND id` emits the events `INIT` would emit with model `id` active (R85 b). -/
def Obligations.BindEmitsWhatInitWould : Prop :=
  ∀ (s t : State) (id : Byte), s.bound = false → exec (.bind id) s = .next t → t.response.result = .ok →
    ∃ u, exec .init { s with activeId := id, bound := true, lifecycle := .init } = .next u ∧ t.log = u.log ∧
      t.lifecycle = u.lifecycle ∧ t.receiver = u.receiver

/-! ### Addresses and pixels -/

/-- `ALIGN` (R87): its outputs, their bounds, when the aligned rectangle contains the requested one, the spec's example. -/
def Obligations.AlignmentRule : Prop :=
  (∀ x w : Nat,
    (align x w).1 = x - x % 8 ∧ (align x w).2 = (w + 7) / 8 * 8 ∧ (align x w).1 % 8 = 0 ∧ (align x w).2 % 8 = 0 ∧
    (align x w).1 ≤ x ∧ x - (align x w).1 ≤ 7 ∧ w ≤ (align x w).2 ∧ (align x w).2 ≤ w + 7 ∧
    (x + w ≤ (align x w).1 + (align x w).2 ↔ x % 8 + w ≤ (align x w).2)) ∧
  (align 390 20 = (384, 24) ∧ (align 0 0).2 = 0 ∧ (align 0 65535).2 = 65536)

/-- Properties of `ALIGN` the spec asks for: idempotence (R90 a), an in-bounds rectangle stays in bounds when the panel's
width is a multiple of 8 (R90 c, e), and the examples of R90 f and g. -/
def Obligations.AlignmentProperties : Prop :=
  (∀ x w, align (align x w).1 (align x w).2 = align x w) ∧
  (∀ (m : Model) (x w : Nat), m.width % 8 = 0 → x + w ≤ m.width → (align x w).1 + (align x w).2 ≤ m.width) ∧
  ¬((align 120 2).1 + (align 120 2).2 ≤ 122) ∧ (align 399 8).1 + (align 399 8).2 ≤ 400

/-- An accepted `WRITE_IMAGE`: its aligned rectangle is inside the panel, never reaches the columns beyond the last whole
byte-column (R137), and the working registers hold the exact values, without wrap-around (R18). -/
def Obligations.AcceptedWriteImageGeometry : Prop :=
  ∀ (s t : State) (m : Model) (d : Driver) (bp cp : Bool) (x y w h : Half), Bound s m d →
    exec (.writeImage bp cp x y w h) s = .next t → t.response.result = .ok →
    alignedX x + alignedW w ≤ m.width / 8 * 8 ∧ y.toNat + h.toNat ≤ m.height ∧
    t.working.xa.toNat = alignedX x ∧ t.working.wa.toNat = alignedW w ∧ t.working.stride.toNat * 8 = alignedW w

/-- `SET_WINDOW` of the window style (R92, R74): one command and eight bytes, high byte first, the inclusive end column
with its low three bits set. -/
def Obligations.WindowStyleEncoding : Prop :=
  ∀ (d : Driver) (x y w h : Nat), d.addrStyle = .window → 1 ≤ w → 1 ≤ h → x + w ≤ 65536 → y + h ≤ 65536 →
    ∃ b0 b1 b2 b3 b4 b5 b6 b7 : Byte,
      setWindow d x y w h = [.cmd d.cWindow, .data [b0, b1, b2, b3, b4, b5, b6, b7]] ∧
      b0.toNat * 256 + b1.toNat = x - x % 8 ∧ b2.toNat * 256 + b3.toNat = ((x + w - 1) ||| 7) ∧
      (b2.toNat * 256 + b3.toNat) % 8 = 7 ∧ (b2.toNat * 256 + b3.toNat) / 8 = (x + w - 1) / 8 ∧
      b4.toNat * 256 + b5.toNat = y ∧ b6.toNat * 256 + b7.toNat = y + h - 1

/-- `SET_WINDOW` of the counter style (R94, R75): four commands, byte-columns as single bytes, rows low byte first, the
end convention the driver's. Of the byte sent for the exclusive end 256, which has none, only that it is at most the start
is stated (log 7). -/
def Obligations.CounterStyleEncoding : Prop :=
  ∀ (d : Driver) (x y w h : Nat), d.addrStyle = .counter → 1 ≤ w → 1 ≤ h → x + w ≤ 65536 →
    y + h ≤ (if d.endInclusive then 65536 else 65535) → EndColumnFits d x w →
    ∃ xsb xeb yl yh el eh : Byte,
      setWindow d x y w h =
        [.cmd d.cXrange, .data [xsb, xeb], .cmd d.cYrange, .data [yl, yh, el, eh], .cmd d.cXcount, .data [xsb],
         .cmd d.cYcount, .data [yl, yh]] ∧
      xsb.toNat = x / 8 ∧
      ((x + w - 1) / 8 + (if d.endInclusive then 0 else 1) < 256 →
        xeb.toNat = (x + w - 1) / 8 + (if d.endInclusive then 0 else 1)) ∧
      (¬(x + w - 1) / 8 + (if d.endInclusive then 0 else 1) < 256 → xeb.toNat ≤ xsb.toNat) ∧
      yl.toNat + yh.toNat * 256 = y ∧ el.toNat + eh.toNat * 256 = (if d.endInclusive then y + h - 1 else y + h)

/-- `PLANE_BYTES` (R100): a present buffer's first `n` bytes in order, an absent plane's filler. -/
def Obligations.PlaneBytesInOrder : Prop :=
  ∀ (bs : List Byte) (filler : Byte) (stride h : Nat),
    (stride * h ≤ bs.length → planeBytes (Memory.ofBytes bs) true filler stride h = some (bs.take (stride * h))) ∧
    (∀ buf, planeBytes buf false filler stride h = some (List.replicate (stride * h) filler))

/-! ### The far side of the transport -/

/-- After `SET_WINDOW` the receiver's window is the byte-columns and rows R97 names, whatever it was before (R97, R55). -/
def Obligations.SetWindowProgramsReceiver : Prop :=
  ∀ (d : Driver) (m : Model) (r : Receiver) (x y w h : Nat), CodesApart d m → 1 ≤ w → 1 ≤ h → x + w ≤ 65536 →
    y + h ≤ 65536 → (d.addrStyle = .counter → d.endInclusive = false → y + h ≤ 65535) → EndColumnFits d x w →
    (r.feedAll d m (setWindow d x y w h)).window d =
      some (⟨x / 8, ((x + w - 1) ||| 7) / 8 - x / 8 + 1⟩, ⟨y, h⟩)

/-- A RAM write fills the window row by row from its top-left cell (R55). Where the window reaches beyond the plane the spec
does not say where the bytes go, and the plane's cells are unknown after the write (log 28). Either way no cell outside the
plane (R43) gains a value. A command that opens no plane, the colour plane's on a single-plane controller among them, stores
nothing (R43). -/
def Obligations.RamWriteIsRowMajor : Prop :=
  (∀ (d : Driver) (m : Model) (r : Receiver) (cols rows : Span) (p : Byte) (bs : List Byte),
    r.window d = some (cols, rows) → OpensPlane d m p → m.width ≤ 65535 →
    (InsidePlane d m cols rows → bs.length ≤ cols.count * rows.count → ∀ k b, bs[k]? = some b →
      (r.feedAll d m [.cmd p, .data bs]).cell p (cols.first + k % cols.count) (rows.first + k / cols.count) = some b) ∧
    (¬InsidePlane d m cols rows → ∀ c row, (r.feedAll d m [.cmd p, .data bs]).cell p c row = none) ∧
    (∀ c row, c < 8192 →
      ¬(c < (m.width + 7) / 8 ∧ row < (if d.planeStrategy = .doubleHeight then 2 * m.height else m.height)) →
      (r.feedAll d m [.cmd p, .data bs]).cell p c row = none ∨
        (r.feedAll d m [.cmd p, .data bs]).cell p c row = r.cell p c row)) ∧
  (∀ (d : Driver) (m : Model) (r : Receiver) (c : Byte) (bs : List Byte), ¬OpensPlane d m c → ∀ p col row,
    (r.feedAll d m [.cmd c, .data bs]).cell p col row = r.cell p col row)

/-- Splitting a `DATA` in two changes nothing on the receiver (R62); `FILL` acts on the receiver's RAM and window as the
command followed by the bytes, and is yet another event (R56). -/
def Obligations.EquivalentRunsOnTheReceiver : Prop :=
  ∀ (d : Driver) (m : Model) (r : Receiver),
    (∀ bs cs, r.feedAll d m [.data bs, .data cs] = r.feedAll d m [.data (bs ++ cs)]) ∧
    (∀ c b n,
      (∀ p col row, (r.feedAll d m [.fill c b n]).cell p col row =
        (r.feedAll d m [.cmd c, .data (List.replicate n b)]).cell p col row) ∧
      (r.feedAll d m [.fill c b n]).window d = (r.feedAll d m [.cmd c, .data (List.replicate n b)]).window d ∧
      Event.fill c b n ∉ [Event.cmd c, Event.data (List.replicate n b)])

/-- The golden bytes (R138): after a `WRITE_IMAGE` that is accepted, every cell of the window holds the byte its plane was
given; for `DOUBLE_HEIGHT` no cell is claimed (U13). -/
def Obligations.GoldenBytes : Prop :=
  ∀ (s : State) (m : Model) (d : Driver) (bp cp : Bool) (x y w h : Half),
    Bound s m d → ImageCell s → w ≠ 0 → h ≠ 0 → Inside m x y w h → m.width ≤ 65535 → m.height ≤ 65535 →
    CodesApart d m → EndColumnFits d (alignedX x) (alignedW w) → d.planeStrategy ≠ .doubleHeight →
    Holds s.blk bp (alignedW w / 8 * h.toNat) → Holds s.col cp (alignedW w / 8 * h.toNat) →
    ∃ t, exec (.writeImage bp cp x y w h) s = .next t ∧
      ∀ r < h.toNat, ∀ c < alignedW w / 8,
        t.receiver.cell m.cmdRamBlack (alignedX x / 8 + c) (y.toNat + r) =
          (if bp then s.blk.read (c + r * (alignedW w / 8)) else some d.fillerBlack) ∧
        (d.planeStrategy = .sequential →
          t.receiver.cell m.cmdRamColor (alignedX x / 8 + c) (y.toNat + r) =
            (if m.color = .bw then (if bp then s.blk.read (c + r * (alignedW w / 8)) else some d.fillerBlack)
             else (if cp then s.col.read (c + r * (alignedW w / 8)) else some d.fillerColor)))

/-- A `WRITE_IMAGE` stores to no cell outside its window, and to no plane but the ones it streams (R138, R134). The cells stored
to are byte-columns `XA / 8 + c`, rows `Y + r`, with `XA`, `WA` the ones `align` gives. Under `DOUBLE_HEIGHT` R138 leaves it
open whether the doubled stream wraps or overruns (U13, D18); that the cells of the black plane outside the window stay as
they are there is the model's choice, its receiver wrapping inside the window (DESIGN CHOICE, log 13). -/
def Obligations.CellsOutsideTheWindowUnchanged : Prop :=
  ∀ (s t : State) (m : Model) (d : Driver) (bp cp : Bool) (x y w h : Half) (p : Byte) (col row : Nat),
    Bound s m d → m.width ≤ 65535 → m.height ≤ 65535 → CodesApart d m →
    EndColumnFits d (alignedX x) (alignedW w) →
    exec (.writeImage bp cp x y w h) s = .next t → col < 8192 →
    (¬((align x.toNat w.toNat).1 / 8 ≤ col ∧ col < ((align x.toNat w.toNat).1 + (align x.toNat w.toNat).2) / 8 ∧
        y.toNat ≤ row ∧ row < y.toNat + h.toNat) ∨
      ¬OpensPlane d m p) →
    t.receiver.cell p col row = s.receiver.cell p col row

/-- `CLEAR 0` fills the receiver's window with the filler, every cell of it, and stores to no cell outside it and to no plane
but the ones it fills: the stale-window hazard, and the whole panel where the window is the whole panel (R189 a, R132). Under
`DOUBLE_HEIGHT` a window of single height takes the doubled fill by wrapping, as in P5 of 95_test_vectors.md (log 13). A window that reaches beyond the
plane (R43) leaves the plane's cells unknown (log 28). -/
def Obligations.ClearFillsTheStaleWindow : Prop :=
  ∀ (s : State) (m : Model) (d : Driver) (cols rows : Span),
    Bound s m d → ImageCell s → (d.planeStrategy = .sequential → m.cmdRamBlack ≠ m.cmdRamColor) →
    s.receiver.window d = some (cols, rows) →
    m.width ≤ 65535 →
    ∃ t, exec (.clear false) s = .next t ∧ t.receiver.window d = some (cols, rows) ∧
      (∀ p col row, ¬OpensPlane d m p → t.receiver.cell p col row = s.receiver.cell p col row) ∧
      (InsidePlane d m cols rows →
        (∀ p col row, col < 8192 →
          ¬(cols.first ≤ col ∧ col < cols.first + cols.count ∧ rows.first ≤ row ∧ row < rows.first + rows.count) →
          t.receiver.cell p col row = s.receiver.cell p col row) ∧
        (∀ i < cols.count, ∀ j < rows.count,
          t.receiver.cell m.cmdRamBlack (cols.first + i) (rows.first + j) = some d.fillerBlack ∧
          (d.planeStrategy = .sequential →
            t.receiver.cell m.cmdRamColor (cols.first + i) (rows.first + j) = some d.fillerColor))) ∧
      (¬InsidePlane d m cols rows → ∀ col row,
        t.receiver.cell m.cmdRamBlack col row = none ∧
        (d.planeStrategy = .sequential → t.receiver.cell m.cmdRamColor col row = none))

/-- The receiver's window after `REFRESH`: kept on a driver without the window reset, the full panel on one with it
(R57, R122, R189 b). -/
def Obligations.RefreshAndTheWindow : Prop :=
  ∀ (s : State) (m : Model) (d : Driver), Bound s m d → ImageCell s → CodesApart d m →
    1 ≤ m.width → m.width ≤ 65535 → 1 ≤ m.height → m.height ≤ 65535 →
    (∀ c b, d.tempPreUpdate = some (c, b) → isAddressing d c = false) →
    ∃ t, exec .refresh s = .next t ∧
      (d.refreshResetsWindow = false → t.receiver.window d = s.receiver.window d) ∧
      (d.refreshResetsWindow = true → EndColumnFits d 0 m.width →
        t.receiver.window d = some (⟨0, ((m.width - 1) ||| 7) / 8 + 1⟩, ⟨0, m.height⟩))

/-- Operations that send no RAM command leave every RAM cell alone (R45, R43). -/
def Obligations.OtherOperationsKeepRam : Prop :=
  ∀ (i : Instr) (s t : State) (m : Model) (d : Driver), Bound s m d →
    i = .refresh ∨ i = .sleep ∨ i = .readTemperature ∨ (∃ v, i = .forceTemperature v) ∨ i = .getActiveModel ∨
      i = .lutDump ∨ i = .ramStream →
    isRamCmd d m d.cSleep = false → isRamCmd d m d.cTforce = false →
    (∀ c b, d.tempPreUpdate = some (c, b) → isRamCmd d m c = false) →
    (∀ c b, d.forcePreCascade = some (c, b) → isRamCmd d m c = false) →
    CodesApart d m → exec i s = .next t →
    ∀ p col row, t.receiver.cell p col row = s.receiver.cell p col row

/-- On a transport that echoes the byte last sent after `c_tforce`, `READ_TEMPERATURE` after `FORCE_TEMPERATURE` returns
the forced value, for all 256 values (R144). -/
def Obligations.EchoedTemperatureRoundTrip : Prop :=
  ∀ (s : State) (m : Model) (d : Driver) (v : Byte), Bound s m d → TempCell s →
    isRamCmd d m d.cTforce = false → isAddressing d d.cTforce = false →
    ∃ t, exec (.forceTemperature v) s = .next t ∧ t.receiver.forced = some v ∧
      ∀ b rest, t.receiver.forced = some b →
        ∃ u, exec .readTemperature { t with answers := b :: rest } = .next u ∧ u.response = ⟨.ok, true, v⟩ ∧
          sext8 u.response.rval = sext8 v
end

