-- ==== Sys2Proof/Laws/Decode.lean ====
section
/-! SUPPORT. Each field of a packed request word, and what the decoder can answer. -/

namespace Sys2Proof

variable (op flags val : Byte) (x y w h : Half)

@[simp] theorem reqOp_packRequest : reqOp (packRequest op flags val x y w h) = op := by
  ext i hi
  simp only [reqOp, packRequest, BitVec.getElem_extractLsb', BitVec.getLsbD_append]
  rw [← BitVec.getLsbD_eq_getElem]
  simp [show ¬(88 + i < 16) by omega, show ¬(88 + i - 16 < 16) by omega,
    show ¬(88 + i - 16 - 16 < 16) by omega, show ¬(88 + i - 16 - 16 - 16 < 16) by omega,
    show ¬(88 + i - 16 - 16 - 16 - 16 < 8) by omega, show ¬(88 + i - 16 - 16 - 16 - 16 - 8 < 8) by omega,
    show ¬(88 + i - 16 - 16 - 16 - 16 - 8 - 8 < 8) by omega, show 88 + i - 16 - 16 - 16 - 16 - 8 - 8 - 8 = i by omega]

@[simp] theorem reqFlags_packRequest : reqFlags (packRequest op flags val x y w h) = flags := by
  ext i hi
  simp only [reqFlags, packRequest, BitVec.getElem_extractLsb', BitVec.getLsbD_append]
  rw [← BitVec.getLsbD_eq_getElem]
  simp [show ¬(80 + i < 16) by omega, show ¬(80 + i - 16 < 16) by omega,
    show ¬(80 + i - 16 - 16 < 16) by omega, show ¬(80 + i - 16 - 16 - 16 < 16) by omega,
    show ¬(80 + i - 16 - 16 - 16 - 16 < 8) by omega, show ¬(80 + i - 16 - 16 - 16 - 16 - 8 < 8) by omega,
    show 80 + i - 16 - 16 - 16 - 16 - 8 - 8 = i by omega]
  exact fun hc => absurd hc (by omega)

@[simp] theorem reqVal_packRequest : reqVal (packRequest op flags val x y w h) = val := by
  ext i hi
  simp only [reqVal, packRequest, BitVec.getElem_extractLsb', BitVec.getLsbD_append]
  rw [← BitVec.getLsbD_eq_getElem]
  simp [show ¬(72 + i < 16) by omega, show ¬(72 + i - 16 < 16) by omega,
    show ¬(72 + i - 16 - 16 < 16) by omega, show ¬(72 + i - 16 - 16 - 16 < 16) by omega,
    show ¬(72 + i - 16 - 16 - 16 - 16 < 8) by omega, show 72 + i - 16 - 16 - 16 - 16 - 8 = i by omega]
  exact fun hc => absurd hc (by omega)

@[simp] theorem reqX_packRequest : reqX (packRequest op flags val x y w h) = x := by
  ext i hi
  simp only [reqX, packRequest, BitVec.getElem_extractLsb', BitVec.getLsbD_append]
  rw [← BitVec.getLsbD_eq_getElem]
  simp [show ¬(48 + i < 16) by omega, show ¬(48 + i - 16 < 16) by omega,
    show ¬(48 + i - 16 - 16 < 16) by omega, show 48 + i - 16 - 16 - 16 = i by omega]
  exact fun hc => absurd hc (by omega)

@[simp] theorem reqY_packRequest : reqY (packRequest op flags val x y w h) = y := by
  ext i hi
  simp only [reqY, packRequest, BitVec.getElem_extractLsb', BitVec.getLsbD_append]
  rw [← BitVec.getLsbD_eq_getElem]
  simp [show ¬(32 + i < 16) by omega, show ¬(32 + i - 16 < 16) by omega, show 32 + i - 16 - 16 = i by omega]
  exact fun hc => absurd hc (by omega)

@[simp] theorem reqW_packRequest : reqW (packRequest op flags val x y w h) = w := by
  ext i hi
  simp only [reqW, packRequest, BitVec.getElem_extractLsb', BitVec.getLsbD_append]
  rw [← BitVec.getLsbD_eq_getElem]
  simp [show ¬(16 + i < 16) by omega, show 16 + i - 16 = i by omega]
  exact fun hc => absurd hc (by omega)

@[simp] theorem reqH_packRequest : reqH (packRequest op flags val x y w h) = h := by
  ext i hi
  simp only [reqH, packRequest, BitVec.getElem_extractLsb', BitVec.getLsbD_append]
  rw [← BitVec.getLsbD_eq_getElem]
  simp [show 0 + i = i by omega]
  exact fun hc => absurd hc (by omega)

@[simp] theorem flagBp_packFlags (bp cp rf : Bool) : flagBp (packFlags bp cp rf) = bp := by
  cases bp <;> cases cp <;> cases rf <;> rfl
@[simp] theorem flagCp_packFlags (bp cp rf : Bool) : flagCp (packFlags bp cp rf) = cp := by
  cases bp <;> cases cp <;> cases rf <;> rfl
@[simp] theorem flagRf_packFlags (bp cp rf : Bool) : flagRf (packFlags bp cp rf) = rf := by
  cases bp <;> cases cp <;> cases rf <;> rfl

/-- The opcode field of a word is its instruction's opcode (R64, R65). -/
@[simp] theorem reqOp_encode (i : Instr) : reqOp (encode i) = opcode i := by cases i <;> simp [encode]

/-- A word whose opcode is 1 to 12 is assigned, and no other (R65, R78). -/
theorem decode_assigned_iff (q : RequestWord) :
    (∃ i, decode q = .assigned i) ↔ 1 ≤ (reqOp q).toNat ∧ (reqOp q).toNat ≤ 12 := by
  unfold decode
  split <;> simp_all
  omega

end Sys2Proof
end

