-- ==== Sys2Proof/Laws/Memory.lean ====
section
/-! SUPPORT. Laws of byte-addressed spaces: what a read gives after a write, and that every operation keeps the canonical
form. -/

namespace Sys2Proof.Machine

@[simp] theorem Memory.read_nil (a : Nat) : Memory.read [] a = none := rfl

/-- Below its first address a canonical memory lists nothing. -/
theorem Memory.read_eq_none_of_lt (mem : Memory) (a : Nat) (h : ∀ c ∈ mem, a < c.1) : mem.read a = none := by
  induction mem with
  | nil => rfl
  | cons c cs ih =>
    have hc := h c (by simp)
    have ih := ih fun c hc => h c (by simp [hc])
    simp only [Memory.read, ih]
    split
    · omega
    · rfl

/-- The byte written is the byte read. -/
@[simp] theorem Memory.read_write_self (mem : Memory) (a : Nat) (b : Byte) : (mem.write a b).read a = some b := by
  induction mem with
  | nil => simp [Memory.write, Memory.read]
  | cons c cs ih =>
    simp only [Memory.write]
    split
    · simp [Memory.read]
    · split
      · simp [Memory.read]
      · simp only [Memory.read, ih]
        split
        · omega
        · rfl

/-- A write leaves every other address alone. -/
theorem Memory.read_write_other (mem : Memory) (a a' : Nat) (b : Byte) (h : a' ≠ a) :
    (mem.write a b).read a' = mem.read a' := by
  induction mem with
  | nil => simp [Memory.write, Memory.read, Ne.symm h, Memory.unlisted]
  | cons c cs ih =>
    simp only [Memory.write]
    split
    · simp [Memory.read, Ne.symm h]
    · split
      next _ heq => simp [Memory.read, Ne.symm h, ← heq]
      next => simp only [Memory.read, ih]

theorem Memory.mem_write (mem : Memory) (a : Nat) (b : Byte) (c : Host.Cell) (h : c ∈ mem.write a b) :
    c = (a, b) ∨ c ∈ mem := by
  induction mem with
  | nil => simpa [Memory.write] using h
  | cons e es ih =>
    simp only [Memory.write] at h
    split at h
    · simpa using h
    · split at h
      · simp only [List.mem_cons] at h ⊢
        tauto
      · simp only [List.mem_cons] at h ⊢
        rcases h with h | h
        · exact .inr (.inl h)
        · rcases ih h with h | h
          · exact .inl h
          · exact .inr (.inr h)

/-- A write keeps the canonical form. -/
theorem Memory.write_wf (mem : Memory) (a : Nat) (b : Byte) (h : mem.wf) : (mem.write a b).wf := by
  induction mem with
  | nil => simp [Memory.write, Memory.wf]
  | cons c cs ih =>
    have hcs := List.pairwise_cons.1 h
    simp only [Memory.write]
    split
    next hlt =>
      refine List.pairwise_cons.2 ⟨fun e he => ?_, h⟩
      rcases List.mem_cons.1 he with rfl | he
      · exact hlt
      · exact hlt.trans (hcs.1 e he)
    next hge =>
      split
      next heq => exact List.pairwise_cons.2 ⟨fun e he => by simpa [heq] using hcs.1 e he, hcs.2⟩
      next hne =>
        refine List.pairwise_cons.2 ⟨fun e he => ?_, ih hcs.2⟩
        rcases Memory.mem_write cs a b e he with rfl | he
        · show c.1 < a
          omega
        · exact hcs.1 e he

@[simp] theorem Memory.writeAll_nil (mem : Memory) : Memory.writeAll [] mem = mem := rfl
@[simp] theorem Memory.writeAll_cons (c : Host.Cell) (cs : List Host.Cell) (mem : Memory) :
    Memory.writeAll (c :: cs) mem = Memory.writeAll cs (mem.write c.1 c.2) := rfl

/-- Storing a list of cells keeps the canonical form. -/
theorem Memory.writeAll_wf (cells : List Host.Cell) (mem : Memory) (h : mem.wf) : (Memory.writeAll cells mem).wf := by
  induction cells generalizing mem with
  | nil => exact h
  | cons c cs ih => exact ih _ (Memory.write_wf mem c.1 c.2 h)

/-- Storing cells leaves an address none of them has alone. -/
theorem Memory.read_writeAll_other (cells : List Host.Cell) (mem : Memory) (a : Nat) (h : ∀ c ∈ cells, c.1 ≠ a) :
    (Memory.writeAll cells mem).read a = mem.read a := by
  induction cells generalizing mem with
  | nil => rfl
  | cons c cs ih =>
    rw [Memory.writeAll_cons, ih _ fun e he => h e (by simp [he])]
    exact Memory.read_write_other mem c.1 a c.2 (Ne.symm (h c (by simp)))

theorem Memory.ofBytesFrom_lower (i : Nat) (bs : List Byte) : ∀ c ∈ Memory.ofBytesFrom i bs, i ≤ c.1 := by
  induction bs generalizing i with
  | nil => simp [Memory.ofBytesFrom]
  | cons b bs ih =>
    intro c hc
    rcases List.mem_cons.1 hc with rfl | hc
    · exact Nat.le_refl _
    · exact (Nat.le_succ i).trans (ih (i + 1) c hc)

theorem Memory.ofBytesFrom_wf (i : Nat) (bs : List Byte) : (Memory.ofBytesFrom i bs).wf := by
  induction bs generalizing i with
  | nil => simp [Memory.ofBytesFrom, Memory.wf]
  | cons b bs ih => exact List.pairwise_cons.2 ⟨fun e he => Memory.ofBytesFrom_lower (i + 1) bs e he, ih (i + 1)⟩

/-- A buffer the host fills is in canonical form. -/
theorem Memory.ofBytes_wf (bs : List Byte) : (Memory.ofBytes bs).wf := Memory.ofBytesFrom_wf 0 bs

theorem Memory.read_ofBytesFrom (i : Nat) (bs : List Byte) (a : Nat) :
    (Memory.ofBytesFrom i bs).read (i + a) = bs[a]? := by
  induction bs generalizing i a with
  | nil => rfl
  | cons b bs ih =>
    cases a with
    | zero => simp [Memory.ofBytesFrom, Memory.read]
    | succ a =>
      have h := ih (i + 1) a
      simp only [Memory.ofBytesFrom, Memory.read]
      rw [if_neg (by omega)]
      rw [show i + 1 + a = i + (a + 1) by omega] at h
      simpa using h

/-- A buffer filled from a list reads as the list. -/
@[simp] theorem Memory.read_ofBytes (bs : List Byte) (a : Nat) : (Memory.ofBytes bs).read a = bs[a]? := by
  have h := Memory.read_ofBytesFrom 0 bs a
  rwa [Nat.zero_add] at h

/-- What `holds` says. -/
theorem Memory.holds_iff (mem : Memory) (n : Nat) : mem.holds n = true ↔ ∀ i < n, (mem.read i).isSome = true := by
  simp [Memory.holds]

/-! ### Reading runs of a buffer -/

/-- `readBytes` answers exactly when every index has a byte, and then gives them in order. -/
theorem readBytes_eq_some (buf : Memory) (is : List Nat) (bs : List Byte) :
    readBytes buf is = some bs ↔ is.map buf.read = bs.map some := by
  induction is generalizing bs with
  | nil => cases bs <;> simp [readBytes]
  | cons i is ih =>
    cases bs with
    | nil =>
      simp only [readBytes, List.map_cons, List.map_nil, reduceCtorEq, iff_false]
      split <;> simp
    | cons b bs =>
      simp only [readBytes, List.map_cons, List.cons.injEq, ← ih]
      cases h1 : buf.read i <;> cases h2 : readBytes buf is <;> simp

/-- Of a buffer that holds the indices, `readBytes` answers. -/
theorem readBytes_isSome (buf : Memory) (is : List Nat) (h : ∀ i ∈ is, (buf.read i).isSome = true) :
    (readBytes buf is).isSome = true := by
  induction is with
  | nil => rfl
  | cons i is ih =>
    obtain ⟨b, hb⟩ := Option.isSome_iff_exists.1 (h i (by simp))
    obtain ⟨bs, hbs⟩ := Option.isSome_iff_exists.1 (ih fun j hj => h j (by simp [hj]))
    simp [readBytes, hb, hbs]

theorem readBytes_length (buf : Memory) (is : List Nat) (bs : List Byte) (h : readBytes buf is = some bs) :
    bs.length = is.length := by
  have h := congrArg List.length ((readBytes_eq_some buf is bs).1 h)
  simpa using h.symm

/-- The indices of `PLANE_BYTES` are 0, 1, 2, … in order (R100). -/
theorem planeIndices_eq_range (stride h : Nat) : planeIndices stride h = List.range (stride * h) := by
  induction h with
  | zero => simp [planeIndices]
  | succ h ih =>
    have : planeIndices stride (h + 1) = planeIndices stride h ++ (List.range stride).map fun c => c + h * stride := by
      simp [planeIndices, List.range_succ]
    rw [this, ih, Nat.mul_succ, List.range_add]
    congr 1
    exact List.map_congr_left fun c _ => by rw [Nat.mul_comm, Nat.add_comm]

/-- The doubled pass visits the rows twice, one copy after the other (R106). -/
theorem doubleIndices_eq (stride h : Nat) : doubleIndices stride h = planeIndices stride h ++ planeIndices stride h := by
  simp only [doubleIndices, planeIndices, Nat.two_mul, List.range_add, List.flatMap_append]
  congr 1
  · exact List.flatMap_congr fun r hr => by simp [List.mem_range.1 hr]
  · rw [List.flatMap_map]
    exact List.flatMap_congr fun r _ => by simp

theorem readBytes_append (buf : Memory) (is js : List Nat) (bs cs : List Byte) (hi : readBytes buf is = some bs)
    (hj : readBytes buf js = some cs) : readBytes buf (is ++ js) = some (bs ++ cs) := by
  rw [readBytes_eq_some] at *
  simp [hi, hj]

/-- Everything `planeRun` can answer: as many bytes as indices. -/
theorem planeRun_length (buf : Memory) (p : Bool) (f : Byte) (is : List Nat) (bs : List Byte)
    (h : planeRun buf p f is = some bs) : bs.length = is.length := by
  cases p with
  | true => exact readBytes_length buf is bs h
  | false =>
    simp only [planeRun, Bool.false_eq_true, if_false, Option.some.injEq] at h
    simp [← h]

/-- `PLANE_BYTES` answers `stride * h` bytes (R100, R109). -/
theorem planeBytes_length (buf : Memory) (p : Bool) (f : Byte) (stride h : Nat) (bs : List Byte)
    (e : planeBytes buf p f stride h = some bs) : bs.length = stride * h := by
  have := planeRun_length buf p f _ bs e
  rwa [planeIndices_eq_range, List.length_range] at this

/-- `PLANE_BYTES` answers whenever the plane is absent or its buffer holds the bytes (R99). -/
theorem planeBytes_isSome (buf : Memory) (p : Bool) (f : Byte) (stride h : Nat)
    (e : p = true → buf.holds (stride * h) = true) : (planeBytes buf p f stride h).isSome = true := by
  cases p with
  | false => rfl
  | true =>
    refine readBytes_isSome buf _ fun i hi => ?_
    rw [planeIndices_eq_range, List.mem_range] at hi
    exact (Memory.holds_iff buf _).1 (e rfl) i hi

end Sys2Proof.Machine
end

