-- ==== Sys2Proof/Laws/State.lean ====
section
/-! SUPPORT. One lemma per field per update of the state, so that no proof unfolds a record update. -/

namespace Sys2Proof.Machine

variable (s : State)

/-! ### emit -/

@[simp] theorem State.emit_lifecycle (m : Model) (d : Driver) (e : Event) : (s.emit m d e).lifecycle = s.lifecycle := rfl
@[simp] theorem State.emit_bound (m : Model) (d : Driver) (e : Event) : (s.emit m d e).bound = s.bound := rfl
@[simp] theorem State.emit_activeId (m : Model) (d : Driver) (e : Event) : (s.emit m d e).activeId = s.activeId := rfl
@[simp] theorem State.emit_latches (m : Model) (d : Driver) (e : Event) : (s.emit m d e).latches = s.latches := rfl
@[simp] theorem State.emit_working (m : Model) (d : Driver) (e : Event) : (s.emit m d e).working = s.working := rfl
@[simp] theorem State.emit_response (m : Model) (d : Driver) (e : Event) : (s.emit m d e).response = s.response := rfl
@[simp] theorem State.emit_busy (m : Model) (d : Driver) (e : Event) : (s.emit m d e).busy = s.busy := rfl
@[simp] theorem State.emit_seqPc (m : Model) (d : Driver) (e : Event) : (s.emit m d e).seqPc = s.seqPc + 1 := rfl
@[simp] theorem State.emit_log (m : Model) (d : Driver) (e : Event) : (s.emit m d e).log = s.log ++ [e] := rfl
@[simp] theorem State.emit_responses (m : Model) (d : Driver) (e : Event) : (s.emit m d e).responses = s.responses := rfl
@[simp] theorem State.emit_cfg (m : Model) (d : Driver) (e : Event) : (s.emit m d e).cfg = s.cfg := rfl
@[simp] theorem State.emit_blk (m : Model) (d : Driver) (e : Event) : (s.emit m d e).blk = s.blk := rfl
@[simp] theorem State.emit_col (m : Model) (d : Driver) (e : Event) : (s.emit m d e).col = s.col := rfl
@[simp] theorem State.emit_host (m : Model) (d : Driver) (e : Event) : (s.emit m d e).host = s.host := rfl
@[simp] theorem State.emit_answers (m : Model) (d : Driver) (e : Event) : (s.emit m d e).answers = s.answers := rfl
@[simp] theorem State.emit_draws (m : Model) (d : Driver) (e : Event) : (s.emit m d e).draws = s.draws := rfl
@[simp] theorem State.emit_receiver (m : Model) (d : Driver) (e : Event) : (s.emit m d e).receiver = Receiver.feed d m s.receiver e := rfl

/-! ### draw -/

@[simp] theorem State.draw_lifecycle : (s.draw).lifecycle = s.lifecycle := rfl
@[simp] theorem State.draw_bound : (s.draw).bound = s.bound := rfl
@[simp] theorem State.draw_activeId : (s.draw).activeId = s.activeId := rfl
@[simp] theorem State.draw_latches : (s.draw).latches = s.latches := rfl
@[simp] theorem State.draw_working : (s.draw).working = s.working := rfl
@[simp] theorem State.draw_response : (s.draw).response = s.response := rfl
@[simp] theorem State.draw_busy : (s.draw).busy = s.busy := rfl
@[simp] theorem State.draw_seqPc : (s.draw).seqPc = s.seqPc := rfl
@[simp] theorem State.draw_log : (s.draw).log = s.log := rfl
@[simp] theorem State.draw_responses : (s.draw).responses = s.responses := rfl
@[simp] theorem State.draw_cfg : (s.draw).cfg = s.cfg := rfl
@[simp] theorem State.draw_blk : (s.draw).blk = s.blk := rfl
@[simp] theorem State.draw_col : (s.draw).col = s.col := rfl
@[simp] theorem State.draw_host : (s.draw).host = s.host := rfl
@[simp] theorem State.draw_answers : (s.draw).answers = s.answers.tail := rfl
@[simp] theorem State.draw_draws : (s.draw).draws = s.draws + 1 := rfl
@[simp] theorem State.draw_receiver : (s.draw).receiver = s.receiver := rfl

/-! ### finish -/

@[simp] theorem State.finish_lifecycle (r : Response) : (s.finish r).lifecycle = s.lifecycle := rfl
@[simp] theorem State.finish_bound (r : Response) : (s.finish r).bound = s.bound := rfl
@[simp] theorem State.finish_activeId (r : Response) : (s.finish r).activeId = s.activeId := rfl
@[simp] theorem State.finish_latches (r : Response) : (s.finish r).latches = s.latches := rfl
@[simp] theorem State.finish_working (r : Response) : (s.finish r).working = s.working := rfl
@[simp] theorem State.finish_response (r : Response) : (s.finish r).response = r := rfl
@[simp] theorem State.finish_busy (r : Response) : (s.finish r).busy = false := rfl
@[simp] theorem State.finish_seqPc (r : Response) : (s.finish r).seqPc = 0 := rfl
@[simp] theorem State.finish_log (r : Response) : (s.finish r).log = s.log := rfl
@[simp] theorem State.finish_responses (r : Response) : (s.finish r).responses = s.responses ++ [r.word] := rfl
@[simp] theorem State.finish_cfg (r : Response) : (s.finish r).cfg = s.cfg := rfl
@[simp] theorem State.finish_blk (r : Response) : (s.finish r).blk = s.blk := rfl
@[simp] theorem State.finish_col (r : Response) : (s.finish r).col = s.col := rfl
@[simp] theorem State.finish_host (r : Response) : (s.finish r).host = s.host := rfl
@[simp] theorem State.finish_answers (r : Response) : (s.finish r).answers = s.answers := rfl
@[simp] theorem State.finish_draws (r : Response) : (s.finish r).draws = s.draws := rfl
@[simp] theorem State.finish_receiver (r : Response) : (s.finish r).receiver = s.receiver := rfl

/-! ### accept -/

@[simp] theorem State.accept_lifecycle (q : RequestWord) : (s.accept q).lifecycle = s.lifecycle := rfl
@[simp] theorem State.accept_bound (q : RequestWord) : (s.accept q).bound = s.bound := rfl
@[simp] theorem State.accept_activeId (q : RequestWord) : (s.accept q).activeId = s.activeId := rfl
@[simp] theorem State.accept_latches (q : RequestWord) : (s.accept q).latches = ⟨reqOp q, reqFlags q, reqVal q, reqX q, reqY q, reqW q, reqH q⟩ := rfl
@[simp] theorem State.accept_working (q : RequestWord) : (s.accept q).working = s.working := rfl
@[simp] theorem State.accept_response (q : RequestWord) : (s.accept q).response = s.response := rfl
@[simp] theorem State.accept_busy (q : RequestWord) : (s.accept q).busy = true := rfl
@[simp] theorem State.accept_seqPc (q : RequestWord) : (s.accept q).seqPc = 0 := rfl
@[simp] theorem State.accept_log (q : RequestWord) : (s.accept q).log = s.log := rfl
@[simp] theorem State.accept_responses (q : RequestWord) : (s.accept q).responses = s.responses := rfl
@[simp] theorem State.accept_cfg (q : RequestWord) : (s.accept q).cfg = s.cfg := rfl
@[simp] theorem State.accept_blk (q : RequestWord) : (s.accept q).blk = s.blk := rfl
@[simp] theorem State.accept_col (q : RequestWord) : (s.accept q).col = s.col := rfl
@[simp] theorem State.accept_host (q : RequestWord) : (s.accept q).host = s.host := rfl
@[simp] theorem State.accept_answers (q : RequestWord) : (s.accept q).answers = s.answers := rfl
@[simp] theorem State.accept_draws (q : RequestWord) : (s.accept q).draws = s.draws := rfl
@[simp] theorem State.accept_receiver (q : RequestWord) : (s.accept q).receiver = s.receiver := rfl

/-! ### bindTo -/

@[simp] theorem State.bindTo_lifecycle (id : Byte) : (s.bindTo id).lifecycle = s.lifecycle := rfl
@[simp] theorem State.bindTo_bound (id : Byte) : (s.bindTo id).bound = true := rfl
@[simp] theorem State.bindTo_activeId (id : Byte) : (s.bindTo id).activeId = id := rfl
@[simp] theorem State.bindTo_latches (id : Byte) : (s.bindTo id).latches = s.latches := rfl
@[simp] theorem State.bindTo_working (id : Byte) : (s.bindTo id).working = s.working := rfl
@[simp] theorem State.bindTo_response (id : Byte) : (s.bindTo id).response = s.response := rfl
@[simp] theorem State.bindTo_busy (id : Byte) : (s.bindTo id).busy = s.busy := rfl
@[simp] theorem State.bindTo_seqPc (id : Byte) : (s.bindTo id).seqPc = s.seqPc := rfl
@[simp] theorem State.bindTo_log (id : Byte) : (s.bindTo id).log = s.log := rfl
@[simp] theorem State.bindTo_responses (id : Byte) : (s.bindTo id).responses = s.responses := rfl
@[simp] theorem State.bindTo_cfg (id : Byte) : (s.bindTo id).cfg = s.cfg := rfl
@[simp] theorem State.bindTo_blk (id : Byte) : (s.bindTo id).blk = s.blk := rfl
@[simp] theorem State.bindTo_col (id : Byte) : (s.bindTo id).col = s.col := rfl
@[simp] theorem State.bindTo_host (id : Byte) : (s.bindTo id).host = s.host := rfl
@[simp] theorem State.bindTo_answers (id : Byte) : (s.bindTo id).answers = s.answers := rfl
@[simp] theorem State.bindTo_draws (id : Byte) : (s.bindTo id).draws = s.draws := rfl
@[simp] theorem State.bindTo_receiver (id : Byte) : (s.bindTo id).receiver = s.receiver := rfl

/-! ### setAligned -/

@[simp] theorem State.setAligned_lifecycle (xa wa : Nat) : (s.setAligned xa wa).lifecycle = s.lifecycle := rfl
@[simp] theorem State.setAligned_bound (xa wa : Nat) : (s.setAligned xa wa).bound = s.bound := rfl
@[simp] theorem State.setAligned_activeId (xa wa : Nat) : (s.setAligned xa wa).activeId = s.activeId := rfl
@[simp] theorem State.setAligned_latches (xa wa : Nat) : (s.setAligned xa wa).latches = s.latches := rfl
@[simp] theorem State.setAligned_working (xa wa : Nat) : (s.setAligned xa wa).working = { s.working with xa := BitVec.ofNat 16 xa, wa := BitVec.ofNat 17 wa } := rfl
@[simp] theorem State.setAligned_response (xa wa : Nat) : (s.setAligned xa wa).response = s.response := rfl
@[simp] theorem State.setAligned_busy (xa wa : Nat) : (s.setAligned xa wa).busy = s.busy := rfl
@[simp] theorem State.setAligned_seqPc (xa wa : Nat) : (s.setAligned xa wa).seqPc = s.seqPc := rfl
@[simp] theorem State.setAligned_log (xa wa : Nat) : (s.setAligned xa wa).log = s.log := rfl
@[simp] theorem State.setAligned_responses (xa wa : Nat) : (s.setAligned xa wa).responses = s.responses := rfl
@[simp] theorem State.setAligned_cfg (xa wa : Nat) : (s.setAligned xa wa).cfg = s.cfg := rfl
@[simp] theorem State.setAligned_blk (xa wa : Nat) : (s.setAligned xa wa).blk = s.blk := rfl
@[simp] theorem State.setAligned_col (xa wa : Nat) : (s.setAligned xa wa).col = s.col := rfl
@[simp] theorem State.setAligned_host (xa wa : Nat) : (s.setAligned xa wa).host = s.host := rfl
@[simp] theorem State.setAligned_answers (xa wa : Nat) : (s.setAligned xa wa).answers = s.answers := rfl
@[simp] theorem State.setAligned_draws (xa wa : Nat) : (s.setAligned xa wa).draws = s.draws := rfl
@[simp] theorem State.setAligned_receiver (xa wa : Nat) : (s.setAligned xa wa).receiver = s.receiver := rfl

/-! ### setStride -/

@[simp] theorem State.setStride_lifecycle (n : Nat) : (s.setStride n).lifecycle = s.lifecycle := rfl
@[simp] theorem State.setStride_bound (n : Nat) : (s.setStride n).bound = s.bound := rfl
@[simp] theorem State.setStride_activeId (n : Nat) : (s.setStride n).activeId = s.activeId := rfl
@[simp] theorem State.setStride_latches (n : Nat) : (s.setStride n).latches = s.latches := rfl
@[simp] theorem State.setStride_working (n : Nat) : (s.setStride n).working = { s.working with stride := BitVec.ofNat 14 n } := rfl
@[simp] theorem State.setStride_response (n : Nat) : (s.setStride n).response = s.response := rfl
@[simp] theorem State.setStride_busy (n : Nat) : (s.setStride n).busy = s.busy := rfl
@[simp] theorem State.setStride_seqPc (n : Nat) : (s.setStride n).seqPc = s.seqPc := rfl
@[simp] theorem State.setStride_log (n : Nat) : (s.setStride n).log = s.log := rfl
@[simp] theorem State.setStride_responses (n : Nat) : (s.setStride n).responses = s.responses := rfl
@[simp] theorem State.setStride_cfg (n : Nat) : (s.setStride n).cfg = s.cfg := rfl
@[simp] theorem State.setStride_blk (n : Nat) : (s.setStride n).blk = s.blk := rfl
@[simp] theorem State.setStride_col (n : Nat) : (s.setStride n).col = s.col := rfl
@[simp] theorem State.setStride_host (n : Nat) : (s.setStride n).host = s.host := rfl
@[simp] theorem State.setStride_answers (n : Nat) : (s.setStride n).answers = s.answers := rfl
@[simp] theorem State.setStride_draws (n : Nat) : (s.setStride n).draws = s.draws := rfl
@[simp] theorem State.setStride_receiver (n : Nat) : (s.setStride n).receiver = s.receiver := rfl

/-! ### blockReset -/

@[simp] theorem State.blockReset_lifecycle : (s.blockReset).lifecycle = .uninit := rfl
@[simp] theorem State.blockReset_bound : (s.blockReset).bound = false := rfl
@[simp] theorem State.blockReset_activeId : (s.blockReset).activeId = 0 := rfl
@[simp] theorem State.blockReset_latches : (s.blockReset).latches = ⟨0, 0, 0, 0, 0, 0, 0⟩ := rfl
@[simp] theorem State.blockReset_working : (s.blockReset).working = ⟨0, 0, 0⟩ := rfl
@[simp] theorem State.blockReset_response : (s.blockReset).response = ⟨.ok, false, 0⟩ := rfl
@[simp] theorem State.blockReset_busy : (s.blockReset).busy = false := rfl
@[simp] theorem State.blockReset_seqPc : (s.blockReset).seqPc = 0 := rfl
@[simp] theorem State.blockReset_log : (s.blockReset).log = [] := rfl
@[simp] theorem State.blockReset_responses : (s.blockReset).responses = [] := rfl
@[simp] theorem State.blockReset_cfg : (s.blockReset).cfg = s.cfg := rfl
@[simp] theorem State.blockReset_blk : (s.blockReset).blk = s.blk := rfl
@[simp] theorem State.blockReset_col : (s.blockReset).col = s.col := rfl
@[simp] theorem State.blockReset_host : (s.blockReset).host = s.host := rfl
@[simp] theorem State.blockReset_answers : (s.blockReset).answers = s.answers := rfl
@[simp] theorem State.blockReset_draws : (s.blockReset).draws = s.draws := rfl
@[simp] theorem State.blockReset_receiver : (s.blockReset).receiver = s.receiver := rfl

/-! ### Ends of an operation, as `finish` -/

@[simp] theorem State.finishOk_eq : s.finishOk = s.finish ⟨.ok, false, 0⟩ := rfl
@[simp] theorem State.finishValue_eq (b : Byte) : s.finishValue b = s.finish ⟨.ok, true, b⟩ := rfl
@[simp] theorem State.raise_eq (e : ResultCode) (c : Byte) : s.raise e c = s.finish ⟨e, false, c⟩ := rfl
@[simp] theorem State.active_emit (m : Model) (d : Driver) (e : Event) : (s.emit m d e).active = s.active := rfl
@[simp] theorem State.active_finish (r : Response) : (s.finish r).active = s.active := rfl
@[simp] theorem State.active_accept (q : RequestWord) : (s.accept q).active = s.active := rfl

/-! ### Emitting a list of events -/

/-- Everything `emitAll` does: LOG grows by the list, SEQ_PC by its length, the receiver takes it. -/
theorem State.emitAll_eq (m : Model) (d : Driver) (es : List Event) :
    s.emitAll m d es =
      { s with
        log := s.log ++ es
        seqPc := s.seqPc + es.length
        receiver := s.receiver.feedAll d m es } := by
  induction es generalizing s with
  | nil => simp [State.emitAll, Receiver.feedAll]
  | cons e es ih =>
    have h : s.emitAll m d (e :: es) = (s.emit m d e).emitAll m d es := rfl
    rw [h, ih]
    simp [State.emit, Receiver.feedAll, Nat.add_assoc, Nat.add_comm 1]

@[simp] theorem State.emitAll_lifecycle (m : Model) (d : Driver) (es : List Event) :
    (s.emitAll m d es).lifecycle = s.lifecycle := by rw [State.emitAll_eq]
@[simp] theorem State.emitAll_bound (m : Model) (d : Driver) (es : List Event) :
    (s.emitAll m d es).bound = s.bound := by rw [State.emitAll_eq]
@[simp] theorem State.emitAll_activeId (m : Model) (d : Driver) (es : List Event) :
    (s.emitAll m d es).activeId = s.activeId := by rw [State.emitAll_eq]
@[simp] theorem State.emitAll_latches (m : Model) (d : Driver) (es : List Event) :
    (s.emitAll m d es).latches = s.latches := by rw [State.emitAll_eq]
@[simp] theorem State.emitAll_working (m : Model) (d : Driver) (es : List Event) :
    (s.emitAll m d es).working = s.working := by rw [State.emitAll_eq]
@[simp] theorem State.emitAll_response (m : Model) (d : Driver) (es : List Event) :
    (s.emitAll m d es).response = s.response := by rw [State.emitAll_eq]
@[simp] theorem State.emitAll_busy (m : Model) (d : Driver) (es : List Event) :
    (s.emitAll m d es).busy = s.busy := by rw [State.emitAll_eq]
@[simp] theorem State.emitAll_seqPc (m : Model) (d : Driver) (es : List Event) :
    (s.emitAll m d es).seqPc = s.seqPc + es.length := by rw [State.emitAll_eq]
@[simp] theorem State.emitAll_log (m : Model) (d : Driver) (es : List Event) :
    (s.emitAll m d es).log = s.log ++ es := by rw [State.emitAll_eq]
@[simp] theorem State.emitAll_responses (m : Model) (d : Driver) (es : List Event) :
    (s.emitAll m d es).responses = s.responses := by rw [State.emitAll_eq]
@[simp] theorem State.emitAll_cfg (m : Model) (d : Driver) (es : List Event) :
    (s.emitAll m d es).cfg = s.cfg := by rw [State.emitAll_eq]
@[simp] theorem State.emitAll_blk (m : Model) (d : Driver) (es : List Event) :
    (s.emitAll m d es).blk = s.blk := by rw [State.emitAll_eq]
@[simp] theorem State.emitAll_col (m : Model) (d : Driver) (es : List Event) :
    (s.emitAll m d es).col = s.col := by rw [State.emitAll_eq]
@[simp] theorem State.emitAll_host (m : Model) (d : Driver) (es : List Event) :
    (s.emitAll m d es).host = s.host := by rw [State.emitAll_eq]
@[simp] theorem State.emitAll_answers (m : Model) (d : Driver) (es : List Event) :
    (s.emitAll m d es).answers = s.answers := by rw [State.emitAll_eq]
@[simp] theorem State.emitAll_draws (m : Model) (d : Driver) (es : List Event) :
    (s.emitAll m d es).draws = s.draws := by rw [State.emitAll_eq]
@[simp] theorem State.emitAll_receiver (m : Model) (d : Driver) (es : List Event) :
    (s.emitAll m d es).receiver = s.receiver.feedAll d m es := by rw [State.emitAll_eq]

@[simp] theorem Receiver.feedAll_nil (d : Driver) (m : Model) (r : Receiver) : r.feedAll d m [] = r := rfl
@[simp] theorem Receiver.feedAll_cons (d : Driver) (m : Model) (r : Receiver) (e : Event) (es : List Event) :
    r.feedAll d m (e :: es) = (Receiver.feed d m r e).feedAll d m es := rfl
@[simp] theorem Receiver.feedAll_append (d : Driver) (m : Model) (r : Receiver) (es fs : List Event) :
    r.feedAll d m (es ++ fs) = (r.feedAll d m es).feedAll d m fs := List.foldl_append

/-- Emitting draws nothing, so the next answer stays. -/
@[simp] theorem State.nextAnswer_emitAll (m : Model) (d : Driver) (es : List Event) :
    (s.emitAll m d es).nextAnswer = s.nextAnswer := by rw [State.emitAll_eq]; rfl

end Sys2Proof.Machine
end

