-- ==== Sys2Proof/Laws/Sequences.lean ====
section
/-! SUPPORT. One closed form for each sub-sequence and each body: which events it emits, which lifecycle state it leaves,
how many bytes it draws. Everything else in the state stays. -/

namespace Sys2Proof.Machine

/-- The state after events `es`, a lifecycle state `l` and `k` drawn bytes. -/
def State.after (m : Model) (d : Driver) (es : List Event) (l : Lifecycle) (k : Nat) (s : State) : State :=
  { s with
    log := s.log ++ es
    seqPc := s.seqPc + es.length
    receiver := s.receiver.feedAll d m es
    lifecycle := l
    answers := s.answers.drop k
    draws := s.draws + k }

variable (m : Model) (d : Driver) (s : State)

theorem State.emitAll_eq_after (es : List Event) : s.emitAll m d es = s.after m d es s.lifecycle 0 := by
  rw [State.emitAll_eq]; simp [State.after]

theorem State.after_after (es fs : List Event) (l l' : Lifecycle) (k k' : Nat) :
    (s.after m d es l k).after m d fs l' k' = s.after m d (es ++ fs) l' (k + k') := by
  simp [State.after, Nat.add_assoc]

theorem State.after_emitAll (es fs : List Event) (l : Lifecycle) (k : Nat) :
    (s.after m d es l k).emitAll m d fs = s.after m d (es ++ fs) l k := by
  rw [State.emitAll_eq_after, State.after_after]; rfl

theorem State.after_setLifecycle (es : List Event) (l l' : Lifecycle) (k : Nat) :
    { s.after m d es l k with lifecycle := l' } = s.after m d es l' k := rfl

@[simp] theorem State.nextAnswer_after (es : List Event) (l : Lifecycle) :
    (s.after m d es l 0).nextAnswer = s.nextAnswer := by simp [State.nextAnswer, State.after]

@[simp] theorem State.after_lifecycle (es : List Event) (l : Lifecycle) (k : Nat) :
    (s.after m d es l k).lifecycle = l := rfl

theorem State.emitRead_eq_after :
    s.emitRead m d = s.after m d [.read 1 [s.nextAnswer]] s.lifecycle 1 := by
  simp [State.emitRead, State.emit, State.draw, State.after]

/-! ### The sub-sequences -/

/-- The events of `PON_SEQ`. -/
def ponEvents (d : Driver) : List Event := [.cmd d.cPon, .wait d.idleLevel d.tPon]

/-- The events of `POF_SEQ`. -/
def pofEvents (d : Driver) : List Event := [.cmd d.cPoff, .wait d.idleLevel d.tPoff]

/-- The events of `TEMP_READ_SEQ` when the transport answers `b`. -/
def tempReadEvents (d : Driver) (b : Byte) : List Event := senseEvents d ++ [.read 1 [b]]

/-- The temperature read inside `REFRESH`. -/
def refreshReadEvents (d : Driver) (b : Byte) : List Event := if d.refreshReadsTemp then tempReadEvents d b else []

/-- The window reset inside `REFRESH`. -/
def refreshWindowEvents (d : Driver) (m : Model) : List Event := if d.refreshResetsWindow then fullWindow d m else []

/-- The events of `REFRESH` when the transport answers `b`. -/
def refreshEvents (d : Driver) (m : Model) (b : Byte) : List Event :=
  ponEvents d ++ refreshReadEvents d b ++ [.cmd d.cRefresh, .wait d.idleLevel d.tRefresh] ++ refreshWindowEvents d m
    ++ pofEvents d

/-- How many bytes `REFRESH` draws. -/
def refreshDraws (d : Driver) : Nat := if d.refreshReadsTemp then 1 else 0

theorem State.ponSeq_eq : s.ponSeq m d = s.after m d (ponEvents d) .pon 0 := by
  rw [State.ponSeq, State.emitAll_eq_after]; rfl

theorem State.pofSeq_eq : s.pofSeq m d = s.after m d (pofEvents d) .poff 0 := by
  rw [State.pofSeq, State.emitAll_eq_after]; rfl

theorem State.initBody_eq : s.initBody m d = s.after m d (initEvents d (initTable d m)) .init 0 := by
  rw [State.initBody, State.emitAll_eq_after]; rfl

theorem State.initFastBody_eq :
    s.initFastBody m d =
      s.after m d (initEvents d (initFastTable d m) ++ ponEvents d ++ pofEvents d) .poff 0 := by
  simp only [State.initFastBody, State.emitAll_eq_after, State.after_setLifecycle, State.ponSeq_eq, State.pofSeq_eq,
    State.after_after, Nat.add_zero]

theorem State.tempReadSeq_eq :
    s.tempReadSeq m d = s.after m d (tempReadEvents d s.nextAnswer) s.lifecycle 1 := by
  simp only [State.tempReadSeq, State.emitAll_eq_after, State.emitRead_eq_after, State.nextAnswer_after,
    State.after_lifecycle, State.after_after, Nat.zero_add, tempReadEvents]

theorem State.refreshRead_eq :
    s.refreshRead m d = s.after m d (refreshReadEvents d s.nextAnswer) s.lifecycle (refreshDraws d) := by
  simp only [State.refreshRead, refreshReadEvents, refreshDraws]
  split
  · exact State.tempReadSeq_eq m d s
  · simp [State.after]

theorem State.refreshWindow_eq :
    s.refreshWindow m d = s.after m d (refreshWindowEvents d m) s.lifecycle 0 := by
  simp only [State.refreshWindow, refreshWindowEvents]
  split
  · exact State.emitAll_eq_after m d s _
  · simp [State.after]

/-- Everything `REFRESH`'s body does. -/
theorem State.refreshBody_eq :
    s.refreshBody m d = s.after m d (refreshEvents d m s.nextAnswer) .poff (refreshDraws d) := by
  simp only [State.refreshBody, State.ponSeq_eq, State.refreshRead_eq, State.nextAnswer_after, State.after_lifecycle,
    State.after_after, State.after_emitAll, State.refreshWindow_eq, State.pofSeq_eq, Nat.zero_add, Nat.add_zero,
    refreshEvents]

/-- The events of `SLEEP`, by the lifecycle it starts in. -/
def sleepEvents (d : Driver) (l : Lifecycle) : List Event :=
  (if l = .pon then pofEvents d else []) ++ cmdWith d.cSleep d.sleepArgs

theorem State.sleepBody_eq : s.sleepBody m d = s.after m d (sleepEvents d s.lifecycle) .sleep 0 := by
  simp only [State.sleepBody, sleepEvents]
  split
  · simp only [State.pofSeq_eq, State.after_emitAll, State.after_setLifecycle]
  · simp only [State.emitAll_eq_after, State.after_setLifecycle, List.nil_append]

/-- The events of `CLEAR`. -/
def clearAllEvents (d : Driver) (m : Model) (rf : Bool) (b : Byte) : List Event :=
  clearEvents d m ++ if rf then refreshEvents d m b else []

theorem State.clearBody_eq (rf : Bool) :
    s.clearBody m d rf =
      s.after m d (clearAllEvents d m rf s.nextAnswer) (if rf then .poff else s.lifecycle)
        (if rf then refreshDraws d else 0) := by
  cases rf
  · simp [State.clearBody, State.emitAll_eq_after, clearAllEvents]
  · simp only [State.clearBody, if_true, State.refreshBody_eq, State.nextAnswer_emitAll, clearAllEvents]
    rw [State.emitAll_eq_after, State.after_after, Nat.zero_add]

/-- Everything an operation that runs leaves: the events, the lifecycle, the draws, the response. -/
theorem State.after_finish (es : List Event) (l : Lifecycle) (k : Nat) (r : Response) :
    (s.after m d es l k).finish r =
      { s with
        log := s.log ++ es
        receiver := s.receiver.feedAll d m es
        lifecycle := l
        answers := s.answers.drop k
        draws := s.draws + k
        response := r
        responses := s.responses ++ [r.word]
        busy := false
        seqPc := 0 } := rfl

end Sys2Proof.Machine
end

