-- ==== Sys2Proof/Laws/Exec.lean ====
section
/-! SUPPORT. What each meaning can do, said once: if it answers a next state, then one of these cases holds. -/

namespace Sys2Proof.Machine

variable {s t : State}

/-! ### The checks of the preamble -/

theorem ifBound_next {k : Outcome} (h : ifBound s k = .next t) :
    (s.bound = false ∧ t = s.finish ⟨.configurationError, false, subNotBound⟩) ∨ (s.bound = true ∧ k = .next t) := by
  unfold ifBound at h
  cases hb : s.bound with
  | true => exact .inr ⟨rfl, by simpa [hb] using h⟩
  | false => exact .inl ⟨rfl, by simpa [hb] using h.symm⟩

theorem withModel_next {k : Model → Driver → Outcome} (h : withModel s k = .next t) :
    (s.bound = false ∧ t = s.finish ⟨.configurationError, false, subNotBound⟩) ∨
      (s.bound = true ∧ ∃ m d, s.active = some (m, d) ∧ k m d = .next t) := by
  rcases ifBound_next h with h | ⟨hb, h⟩
  · exact .inl h
  · cases ha : s.active with
    | none => simp [ha] at h
    | some p => exact .inr ⟨hb, p.1, p.2, by simp, by simpa [ha] using h⟩

theorem ifLegal_next {ok : Bool} {k : Outcome} (h : ifLegal ok k = .next t) : ok = true ∧ k = .next t := by
  unfold ifLegal at h
  cases ok with
  | true => exact ⟨rfl, by simpa using h⟩
  | false => simp at h

theorem ifCapable_next {ok : Bool} {k : Outcome} (h : ifCapable ok s k = .next t) :
    (ok = false ∧ t = s.finish ⟨.unsupportedOperation, false, subCapabilityAbsent⟩) ∨ (ok = true ∧ k = .next t) := by
  unfold ifCapable at h
  cases ok with
  | true => exact .inr ⟨rfl, by simpa using h⟩
  | false => exact .inl ⟨rfl, by simpa using h.symm⟩

/-- The shape of an operation that runs: it emits, moves the lifecycle, draws, and ends with a response. -/
abbrev Ran (m : Model) (d : Driver) (es : List Event) (l : Lifecycle) (k : Nat) (r : Response) (s t : State) : Prop :=
  t = (s.after m d es l k).finish r

/-- The shape of an operation that ends with an error: nothing but the end of the operation. -/
abbrev Erred (r : Response) (s t : State) : Prop := t = s.finish r

/-! ### The meanings -/

theorem execBind_next {id : Byte} (h : execBind id s = .next t) :
    (s.bound = true ∧ Erred ⟨.configurationError, false, subAlreadyBound⟩ s t) ∨
    (s.bound = false ∧ findModel s.cfg id = none ∧ Erred ⟨.configurationError, false, subUnknownModel⟩ s t) ∨
    (s.bound = false ∧ ∃ m d, findModel s.cfg id = some m ∧ findDriver s.cfg m.driver = some d ∧
      Ran m d (initEvents d (initTable d m)) .init 0 ⟨.ok, false, 0⟩ (s.bindTo id) t) := by
  unfold execBind at h
  cases hb : s.bound with
  | true => exact .inl ⟨rfl, by simpa [hb, Erred] using h.symm⟩
  | false =>
    right
    simp only [hb, bindLookup, Bool.false_eq_true, if_false] at h
    cases hm : findModel s.cfg id with
    | none => exact .inl ⟨rfl, rfl, by simpa [hm, Erred] using h.symm⟩
    | some m =>
      cases hd : findDriver s.cfg m.driver with
      | none => simp [hm, hd] at h
      | some d =>
        simp only [hm, hd, State.initBody_eq, Host.Outcome.next.injEq] at h
        exact .inr ⟨rfl, m, d, rfl, hd, h.symm⟩

theorem execGetActiveModel_eq (s : State) :
    execGetActiveModel s = .next (s.finish ⟨.ok, s.bound, if s.bound then s.activeId else 0⟩) := by
  unfold execGetActiveModel
  cases hb : s.bound <;> simp

theorem execLutDump_eq (s : State) :
    execLutDump s = .next (s.finish (if s.bound then ⟨.unsupportedOperation, false, subCapabilityAbsent⟩
      else ⟨.configurationError, false, subNotBound⟩)) := by
  unfold execLutDump ifBound
  cases hb : s.bound <;> simp

theorem execRamStream_eq (s : State) :
    execRamStream s = .next (s.finish (if s.bound then ⟨.unsupportedOperation, false, subCapabilityAbsent⟩
      else ⟨.configurationError, false, subNotBound⟩)) := execLutDump_eq s

/-- An operation that needs a model and a legal lifecycle, and then runs. -/
theorem gated_next {m' : Model → Driver → State} {ok : Bool}
    (h : withModel s (fun m d => ifLegal ok (.next (m' m d))) = .next t) :
    (s.bound = false ∧ Erred ⟨.configurationError, false, subNotBound⟩ s t) ∨
      (s.bound = true ∧ ∃ m d, s.active = some (m, d) ∧ ok = true ∧ t = m' m d) := by
  rcases withModel_next h with h | ⟨hb, m, d, ha, h⟩
  · exact .inl h
  · obtain ⟨hl, h⟩ := ifLegal_next h
    exact .inr ⟨hb, m, d, ha, hl, by simpa using h.symm⟩

theorem execInit_next (h : execInit s = .next t) :
    (s.bound = false ∧ Erred ⟨.configurationError, false, subNotBound⟩ s t) ∨
    (s.bound = true ∧ ∃ m d, s.active = some (m, d) ∧ legalInit s.cfg s.lifecycle = true ∧
      Ran m d (initEvents d (initTable d m)) .init 0 ⟨.ok, false, 0⟩ s t) := by
  simpa only [State.initBody_eq, State.finishOk_eq, State.finishValue_eq] using gated_next h

theorem execInitFast_next (h : execInitFast s = .next t) :
    (s.bound = false ∧ Erred ⟨.configurationError, false, subNotBound⟩ s t) ∨
    (s.bound = true ∧ ∃ m d, s.active = some (m, d) ∧ d.hasInitFast = false ∧
      Erred ⟨.unsupportedOperation, false, subCapabilityAbsent⟩ s t) ∨
    (s.bound = true ∧ ∃ m d, s.active = some (m, d) ∧ d.hasInitFast = true ∧ legalInit s.cfg s.lifecycle = true ∧
      Ran m d (initEvents d (initFastTable d m) ++ ponEvents d ++ pofEvents d) .poff 0 ⟨.ok, false, 0⟩ s t) := by
  rcases withModel_next h with h | ⟨hb, m, d, ha, h⟩
  · exact .inl h
  · rcases ifCapable_next h with ⟨hc, h⟩ | ⟨hc, h⟩
    · exact .inr (.inl ⟨hb, m, d, ha, hc, h⟩)
    · obtain ⟨hl, h⟩ := ifLegal_next h
      refine .inr (.inr ⟨hb, m, d, ha, hc, hl, ?_⟩)
      simpa only [State.initFastBody_eq, State.finishOk_eq, Host.Outcome.next.injEq, eq_comm] using h

theorem execRefresh_next (h : execRefresh s = .next t) :
    (s.bound = false ∧ Erred ⟨.configurationError, false, subNotBound⟩ s t) ∨
    (s.bound = true ∧ ∃ m d, s.active = some (m, d) ∧ legalImage s.lifecycle = true ∧
      Ran m d (refreshEvents d m s.nextAnswer) .poff (refreshDraws d) ⟨.ok, false, 0⟩ s t) := by
  simpa only [State.refreshBody_eq, State.finishOk_eq, State.finishValue_eq] using gated_next h

theorem execSleep_next (h : execSleep s = .next t) :
    (s.bound = false ∧ Erred ⟨.configurationError, false, subNotBound⟩ s t) ∨
    (s.bound = true ∧ ∃ m d, s.active = some (m, d) ∧ legalSleep s.lifecycle = true ∧
      Ran m d (sleepEvents d s.lifecycle) .sleep 0 ⟨.ok, false, 0⟩ s t) := by
  simpa only [State.sleepBody_eq, State.finishOk_eq, State.finishValue_eq] using gated_next h

theorem execClear_next {rf : Bool} (h : execClear rf s = .next t) :
    (s.bound = false ∧ Erred ⟨.configurationError, false, subNotBound⟩ s t) ∨
    (s.bound = true ∧ ∃ m d, s.active = some (m, d) ∧ legalImage s.lifecycle = true ∧
      Ran m d (clearAllEvents d m rf s.nextAnswer) (if rf then .poff else s.lifecycle)
        (if rf then refreshDraws d else 0) ⟨.ok, false, 0⟩ s t) := by
  simpa only [State.clearBody_eq, State.finishOk_eq, State.finishValue_eq] using gated_next h

theorem execReadTemperature_next (h : execReadTemperature s = .next t) :
    (s.bound = false ∧ Erred ⟨.configurationError, false, subNotBound⟩ s t) ∨
    (s.bound = true ∧ ∃ m d, s.active = some (m, d) ∧ legalTemp s.cfg s.lifecycle = true ∧
      Ran m d (tempReadEvents d s.nextAnswer) s.lifecycle 1 ⟨.ok, true, s.nextAnswer⟩ s t) := by
  simpa only [State.tempReadSeq_eq, State.finishOk_eq, State.finishValue_eq] using gated_next h

theorem execForceTemperature_next {v : Byte} (h : execForceTemperature v s = .next t) :
    (s.bound = false ∧ Erred ⟨.configurationError, false, subNotBound⟩ s t) ∨
    (s.bound = true ∧ ∃ m d, s.active = some (m, d) ∧ legalTemp s.cfg s.lifecycle = true ∧
      Ran m d (forceEvents d v) s.lifecycle 0 ⟨.ok, false, 0⟩ s t) := by
  simpa only [State.emitAll_eq_after, State.finishOk_eq] using gated_next h

/-- The bounds check of `WRITE_IMAGE` and what follows it: an error, or the whole window and stream. -/
theorem writeAligned_next {m : Model} {d : Driver} {bp cp : Bool} {xa y wa h : Nat}
    (e : writeAligned m d bp cp xa y wa h s = .next t) :
    (¬(xa + wa ≤ m.width ∧ y + h ≤ m.height) ∧
      Erred ⟨.boundsError, false, subBounds (decide (xa + wa ≤ m.width)) (decide (y + h ≤ m.height))⟩ s t) ∨
    (xa + wa ≤ m.width ∧ y + h ≤ m.height ∧ buffersHold s.blk s.col bp cp (wa / 8 * h) = true ∧
      ∃ es, stream d m s.blk s.col bp cp (wa / 8) h = some es ∧
        Ran m d (setWindow d xa y wa h ++ es) s.lifecycle 0 ⟨.ok, false, 0⟩ ((s.setAligned xa wa).setStride (wa / 8)) t) := by
  unfold writeAligned at e
  split at e
  next hok =>
    simp only [bounds, Bool.and_eq_true, decide_eq_true_eq] at hok
    refine .inr ⟨hok.1, hok.2, ?_⟩
    unfold writeRect at e
    split at e
    next hbuf =>
      refine ⟨hbuf, ?_⟩
      split at e
      next es hes =>
        simp only [State.emitAll_eq_after, Host.Outcome.next.injEq] at e
        exact ⟨es, hes, e.symm⟩
      next => cases e
    next => cases e
  next hok =>
    simp only [bounds, Bool.and_eq_true, decide_eq_true_eq] at hok
    refine .inl ⟨hok, ?_⟩
    cases e
    rfl

theorem execWriteImage_next {bp cp : Bool} {x y w h : Half} (e : execWriteImage bp cp x y w h s = .next t) :
    (s.bound = false ∧ Erred ⟨.configurationError, false, subNotBound⟩ s t) ∨
    (s.bound = true ∧ ∃ m d, s.active = some (m, d) ∧ legalImage s.lifecycle = true ∧ w ≠ 0 ∧ h ≠ 0 ∧
      writeAligned m d bp cp (align x.toNat w.toNat).1 y.toNat (align x.toNat w.toNat).2 h.toNat s = .next t) := by
  rcases withModel_next e with e | ⟨hb, m, d, ha, e⟩
  · exact .inl e
  · obtain ⟨hl, e⟩ := ifLegal_next e
    by_cases hz : w = 0 ∨ h = 0
    · rw [if_pos hz] at e
      cases e
    · rw [if_neg hz] at e
      exact .inr ⟨hb, m, d, ha, hl, fun hw => hz (.inl hw), fun hh => hz (.inr hh), e⟩

end Sys2Proof.Machine
end

