-- ==== Sys2Proof/Laws/Operands.lean ====
section
/-! SUPPORT. Arithmetic of the operand forms: splitting and joining coordinates, alignment. -/

namespace Sys2Proof.Machine

/-- `v = 256 * hi(v) + lo(v)` for a 16-bit value (R89). -/
theorem ofHiLo_hi_lo (v : Nat) (h : v < 65536) : ofHiLo (hi v) (lo v) = v := by
  simp only [ofHiLo, hi, lo, BitVec.toNat_ofNat]
  omega

@[simp] theorem indexByte_toNat (v : Nat) (h : v < 256) : (indexByte v).toNat = v := by
  simp only [indexByte, h, if_true, BitVec.toNat_ofNat]
  omega

/-- An end byte-column that fits is sent as itself (R75). -/
@[simp] theorem endByte_toNat (xsb v : Nat) (h : v < 256) : (endByte xsb v).toNat = v := by
  simp only [endByte, h, if_true, BitVec.toNat_ofNat]
  omega

/-- An end byte-column that does not fit is sent as a byte up to the start: one that means no other exclusive end (log 7). -/
theorem endByte_le (xsb v : Nat) (h : 256 ≤ v) : (endByte xsb v).toNat ≤ xsb := by
  simp only [endByte, show ¬v < 256 by omega, if_false, BitVec.toNat_ofNat]
  exact (Nat.mod_le _ _).trans (Nat.lt_succ_iff.1 (Nat.mod_lt _ (Nat.succ_pos _)))

theorem ceil8_mod (w : Nat) : ceil8 w % 8 = 0 := by simp [ceil8]

theorem ceil8_bounds (w : Nat) : w ≤ ceil8 w ∧ ceil8 w ≤ w + 7 := by
  unfold ceil8
  omega

theorem ceil8_of_mod (w : Nat) (h : w % 8 = 0) : ceil8 w = w := by
  unfold ceil8
  omega

theorem align_mod (x w : Nat) : (align x w).1 % 8 = 0 ∧ (align x w).2 % 8 = 0 := by
  refine ⟨?_, ceil8_mod w⟩
  show (x - x % 8) % 8 = 0
  omega

/-- Setting the low three bits (R92). -/
theorem or_seven (v : Nat) : v ||| 7 = v / 8 * 8 + 7 := by
  have hs : v / 8 * 8 = (v >>> 3) <<< 3 := by rw [Nat.shiftRight_eq_div_pow, Nat.shiftLeft_eq]
  have h : v ||| 7 = (v / 8 * 8) ||| 7 := by
    apply Nat.eq_of_testBit_eq
    intro i
    rw [hs, Nat.testBit_or, Nat.testBit_or, Nat.testBit_shiftLeft, Nat.testBit_shiftRight,
      show (7 : Nat) = 2 ^ 3 - 1 from rfl, Nat.testBit_two_pow_sub_one]
    by_cases hi : i < 3
    · simp [hi]
    · simp [hi, show 3 ≤ i by omega, show 3 + (i - 3) = i by omega]
  rw [h, show v / 8 * 8 = 2 ^ 3 * (v / 8) by omega]
  exact (Nat.two_pow_add_eq_or_of_lt (i := 3) (b := 7) (by omega) (v / 8)).symm

end Sys2Proof.Machine
end

