-- ==== Sys2Proof/Laws/PerInstr.lean ====
section
/-! SUPPORT. The statement made of every instruction as syntax: its word matches its row of spec/opcode_table.json. -/

namespace Sys2Proof.Laws.TableRow

/-- The `mask` every row of the opcode table has (R78). -/
def rowMask : RequestWord := 0xFF0000000000000000000000

/-- The `match` of an instruction's row. -/
def rowMatch : Instr → RequestWord
  | .bind _ => 0x010000000000000000000000
  | .init => 0x020000000000000000000000
  | .initFast => 0x030000000000000000000000
  | .clear _ => 0x040000000000000000000000
  | .writeImage .. => 0x050000000000000000000000
  | .refresh => 0x060000000000000000000000
  | .sleep => 0x070000000000000000000000
  | .readTemperature => 0x080000000000000000000000
  | .forceTemperature _ => 0x090000000000000000000000
  | .getActiveModel => 0x0A0000000000000000000000
  | .lutDump => 0x0B0000000000000000000000
  | .ramStream => 0x0C0000000000000000000000

/-- The word of the instruction, under its row's mask, is its row's match. -/
def Statement (i : Instr) : Prop := encode i &&& rowMask = rowMatch i

/-- Under the row mask only the opcode is left. -/
theorem packRequest_masked (op flags val : Byte) (x y w h : Half) :
    packRequest op flags val x y w h &&& rowMask = packRequest op 0 0 0 0 0 0 := by
  apply BitVec.eq_of_toNat_eq
  have hm : rowMask.toNat = (2 ^ 8 - 1) <<< 88 := by decide
  apply Nat.eq_of_testBit_eq
  intro i
  simp only [BitVec.toNat_and, hm, Nat.testBit_and, Nat.testBit_shiftLeft, Nat.testBit_two_pow_sub_one,
    BitVec.testBit_toNat, packRequest, BitVec.getLsbD_append]
  by_cases hi : i < 88
  · simp [show ¬(88 ≤ i) by omega]
    omega
  · simp [show ¬(i < 16) by omega, show ¬(i - 16 < 16) by omega, show ¬(i - 16 - 16 < 16) by omega,
      show ¬(i - 16 - 16 - 16 < 16) by omega, show ¬(i - 16 - 16 - 16 - 16 < 8) by omega,
      show ¬(i - 16 - 16 - 16 - 16 - 8 < 8) by omega, show ¬(i - 16 - 16 - 16 - 16 - 8 - 8 < 8) by omega,
      show 88 ≤ i by omega]
    intro hl
    have := BitVec.lt_of_getLsbD hl
    omega

/-- Under the row mask the word of an instruction is its opcode alone. -/
theorem encode_masked (i : Instr) : encode i &&& rowMask = packRequest (opcode i) 0 0 0 0 0 0 := by
  cases i <;> exact packRequest_masked ..

/-- An opcode in its place is its row's match (R65). -/
theorem opcode_row (i : Instr) : packRequest (opcode i) 0 0 0 0 0 0 = rowMatch i := by
  cases i <;> simp only [opcode, rowMatch] <;> decide

theorem bind (id : Byte) : Statement (.bind id) := (encode_masked _).trans (opcode_row _)
theorem init : Statement .init := (encode_masked _).trans (opcode_row _)
theorem initFast : Statement .initFast := (encode_masked _).trans (opcode_row _)
theorem clear (rf : Bool) : Statement (.clear rf) := (encode_masked _).trans (opcode_row _)
theorem writeImage (bp cp : Bool) (x y w h : Half) : Statement (.writeImage bp cp x y w h) := (encode_masked _).trans (opcode_row _)
theorem refresh : Statement .refresh := (encode_masked _).trans (opcode_row _)
theorem sleep : Statement .sleep := (encode_masked _).trans (opcode_row _)
theorem readTemperature : Statement .readTemperature := (encode_masked _).trans (opcode_row _)
theorem forceTemperature (value : Byte) : Statement (.forceTemperature value) := (encode_masked _).trans (opcode_row _)
theorem getActiveModel : Statement .getActiveModel := (encode_masked _).trans (opcode_row _)
theorem lutDump : Statement .lutDump := (encode_masked _).trans (opcode_row _)
theorem ramStream : Statement .ramStream := (encode_masked _).trans (opcode_row _)

end Sys2Proof.Laws.TableRow
end

