-- ==== Sys2Proof/Laws/Receiver.lean ====
section
/-! SUPPORT. Laws of the reference receiver: it keeps its memory canonical, its window is sticky, and a RAM write stays in
the window. -/

namespace Sys2Proof.Machine

variable (d : Driver) (m : Model) (r : Receiver)

theorem forgetPlane_wf (mem : Memory) (p : Byte) (h : mem.wf) : (forgetPlane mem p).wf := h.filter _

/-- A cell of a forgotten plane has no value; every other cell keeps its own. -/
theorem read_forgetPlane (mem : Memory) (p : Byte) (a : Nat) :
    (forgetPlane mem p).read a = if a % 256 = p.toNat then none else mem.read a := by
  induction mem with
  | nil => simp [forgetPlane]
  | cons c cs ih =>
    simp only [forgetPlane, List.filter_cons] at ih ⊢
    by_cases hc : c.1 % 256 = p.toNat
    · simp only [hc, bne_self_eq_false, Bool.false_eq_true, if_false, ih, Memory.read]
      by_cases ha : c.1 = a
      · simp [ha ▸ hc]
      · simp [ha]
    · simp only [bne_iff_ne, ne_eq, hc, not_false_eq_true, if_true, Memory.read, ih]
      by_cases ha : c.1 = a
      · simp [ha, ha ▸ hc]
      · simp [ha]

/-! ### Planes -/

/-- What `inPlane` says. -/
theorem inPlane_iff (cols rows : Span) :
    inPlane d m cols rows = true ↔
      0 < cols.count ∧ 0 < rows.count ∧ cols.first + cols.count ≤ planeCols m ∧ rows.first + rows.count ≤ planeRows d m := by
  simp [inPlane, and_assoc]

theorem planeRows_ge : m.height ≤ planeRows d m := by
  unfold planeRows
  split <;> omega

/-- A window inside a plane has no more cells than the plane has bytes. -/
theorem inPlane_cells (cols rows : Span) (h : inPlane d m cols rows = true) :
    cols.count * rows.count ≤ planeExtent d m := by
  have h := (inPlane_iff d m cols rows).1 h
  exact Nat.mul_le_mul (by omega) (by omega)

theorem hasColorPlane_iff : hasColorPlane d = true ↔ d.planeStrategy = .sequential := by
  unfold hasColorPlane
  cases d.planeStrategy <;> simp

/-- The commands that open a plane: the black plane's, and on a dual-plane controller the colour plane's (R43). -/
theorem isRamCmd_iff (c : Byte) :
    isRamCmd d m c = true ↔ c = m.cmdRamBlack ∨ (d.planeStrategy = .sequential ∧ c = m.cmdRamColor) := by
  simp [isRamCmd, hasColorPlane_iff]

/-! ### The exclusive end 256 -/

/-- The byte sent for the exclusive end 256 is read back as 256 (R97). -/
theorem exclusiveStop_256 (first : Byte) : exclusiveStop first (endByte first.toNat 256) = 256 := by
  simp [exclusiveStop, endByte_le]

/-- An end beyond the start is itself. -/
theorem exclusiveStop_of_lt (first last : Byte) (h : first.toNat < last.toNat) : exclusiveStop first last = last.toNat := by
  simp [exclusiveStop, show ¬last.toNat ≤ first.toNat by omega]

/-! ### Argument bytes never touch RAM -/

@[simp] theorem Receiver.takeWindow_cram (a : List Byte) : (r.takeWindow a).cram = r.cram := by
  unfold Receiver.takeWindow; split <;> rfl
@[simp] theorem Receiver.takeXrange_cram (a : List Byte) : (r.takeXrange d a).cram = r.cram := by
  unfold Receiver.takeXrange; split <;> rfl
@[simp] theorem Receiver.takeYrange_cram (a : List Byte) : (r.takeYrange d a).cram = r.cram := by
  unfold Receiver.takeYrange; split <;> rfl
@[simp] theorem Receiver.takeXcount_cram (a : List Byte) : (r.takeXcount a).cram = r.cram := by
  unfold Receiver.takeXcount; split <;> rfl
@[simp] theorem Receiver.takeYcount_cram (a : List Byte) : (r.takeYcount a).cram = r.cram := by
  unfold Receiver.takeYcount; split <;> rfl
@[simp] theorem Receiver.takeForced_cram (a : List Byte) : (r.takeForced a).cram = r.cram := rfl

@[simp] theorem Receiver.takeArgs_cram (c : Byte) (a : List Byte) : (r.takeArgs d c a).cram = r.cram := by
  unfold Receiver.takeArgs
  split
  · split
    · simp
    · split <;> simp
  · repeat' (split; · simp)
    rfl

/-- Everything data bytes into an open RAM write can do: store in a known window inside the plane, or forget the plane. -/
theorem Receiver.storeRam_cases (p : Byte) (bs : List Byte) :
    (∃ cols rows, r.window d = some (cols, rows) ∧ inPlane d m cols rows = true ∧
      r.storeRam d m p bs =
        { r with
          cram := Memory.writeAll (windowCells cols rows p r.cursor bs) r.cram
          cursor := r.cursor + bs.length }) ∨
    ((∀ cols rows, r.window d = some (cols, rows) → inPlane d m cols rows = false) ∧
      r.storeRam d m p bs = { r with cram := forgetPlane r.cram p, cursor := r.cursor + bs.length }) := by
  unfold Receiver.storeRam
  cases hw : r.window d with
  | none => exact .inr ⟨fun _ _ h => (by cases h), rfl⟩
  | some s =>
    obtain ⟨cols, rows⟩ := s
    cases hi : inPlane d m cols rows with
    | true => exact .inl ⟨cols, rows, rfl, hi, by simp [hi]⟩
    | false => exact .inr ⟨fun c w h => by cases h; exact hi, by simp [hi]⟩

theorem Receiver.storeRam_wf (p : Byte) (bs : List Byte) (h : r.cram.wf) : (r.storeRam d m p bs).cram.wf := by
  rcases r.storeRam_cases d m p bs with ⟨_, _, _, _, e⟩ | ⟨_, e⟩ <;> rw [e]
  · exact Memory.writeAll_wf _ _ h
  · exact forgetPlane_wf _ _ h

/-- Data bytes for a command that opens no plane touch no cell. -/
theorem Receiver.takeData_cram (c : Byte) (bs : List Byte) (ho : r.opened = some c) (hc : isRamCmd d m c = false) :
    (r.takeData d m bs).cram = r.cram := by
  simp [Receiver.takeData, ho, hc]

theorem Receiver.takeData_wf (bs : List Byte) (h : r.cram.wf) : (r.takeData d m bs).cram.wf := by
  unfold Receiver.takeData
  split
  · exact h
  · split
    · exact r.storeRam_wf d m _ bs h
    · simpa using h

/-- Every event keeps the receiver's memory canonical. -/
theorem Receiver.feed_wf (e : Event) (h : r.cram.wf) : (Receiver.feed d m r e).cram.wf := by
  cases e with
  | data bs => exact r.takeData_wf d m bs h
  | fill c b n => exact (r.openCmd c).takeData_wf d m _ h
  | cmd | read | reset | wait => exact h

theorem Receiver.feedAll_wf (es : List Event) (h : r.cram.wf) : (r.feedAll d m es).cram.wf := by
  induction es generalizing r with
  | nil => exact h
  | cons e es ih => exact ih _ (r.feed_wf d m e h)

/-! ### RAM writes -/

/-- The bytes of a RAM write do not move the window (R57). -/
@[simp] theorem Receiver.storeRam_window (p : Byte) (bs : List Byte) :
    (r.storeRam d m p bs).window d = r.window d := by
  rcases r.storeRam_cases d m p bs with ⟨_, _, _, _, e⟩ | ⟨_, e⟩ <;> rw [e] <;> rfl

/-- Distinct cells have distinct addresses, byte-columns being below 8192. -/
theorem cramAddr_inj {p p' : Byte} {c c' w w' : Nat} (hc : c < 8192) (hc' : c' < 8192)
    (h : cramAddr p c w = cramAddr p' c' w') : p = p' ∧ c = c' ∧ w = w' := by
  unfold cramAddr at h
  have hp := p.isLt
  have hp' := p'.isLt
  exact ⟨BitVec.eq_of_toNat_eq (by omega), by omega, by omega⟩

/-- Where byte `k` of a RAM write goes, inside the window's extent (R55). -/
theorem windowAddr_lt (cols rows : Span) (p : Byte) (k : Nat) (h : k < cols.count * rows.count) :
    windowAddr cols rows p k = cramAddr p (cols.first + k % cols.count) (rows.first + k / cols.count) := by
  simp [windowAddr, Nat.mod_eq_of_lt h]

/-- Every cell a RAM write stores to is a cell of the window. -/
theorem windowCells_inside (cols rows : Span) (p : Byte) (hc : 0 < cols.count) (hr : 0 < rows.count) (k : Nat)
    (bs : List Byte) :
    ∀ c ∈ windowCells cols rows p k bs, ∃ i < cols.count, ∃ j < rows.count,
      c.1 = cramAddr p (cols.first + i) (rows.first + j) := by
  induction bs generalizing k with
  | nil => simp [windowCells]
  | cons b bs ih =>
    intro c hm
    rcases List.mem_cons.1 hm with rfl | hm
    · refine ⟨_, Nat.mod_lt _ hc, k % (cols.count * rows.count) / cols.count, ?_, rfl⟩
      exact Nat.div_lt_of_lt_mul (Nat.mod_lt _ (Nat.mul_pos hc hr))
    · exact ih (k + 1) c hm

theorem windowCells_append (cols rows : Span) (p : Byte) (k : Nat) (bs cs : List Byte) :
    windowCells cols rows p k (bs ++ cs) =
      windowCells cols rows p k bs ++ windowCells cols rows p (k + bs.length) cs := by
  induction bs generalizing k with
  | nil => rfl
  | cons b bs ih => simp [windowCells, ih, Nat.add_assoc, Nat.add_comm 1]

end Sys2Proof.Machine
end

