-- ==== Sys2Proof/Laws/Step.lean ====
section
/-! SUPPORT. What a step can do, said once. -/

namespace Sys2Proof.Machine

variable {s t : State}

theorem presentRequest_next {q : RequestWord} (h : presentRequest q s = .next t) :
    cfgOk s.cfg = true ∧ s.busy = false ∧
      ((∃ i, decode q = .assigned i ∧ exec i (s.accept q) = .next t) ∨
        (∃ op, decode q = .unassigned op ∧
          t = (s.accept q).finish ⟨.unsupportedOperation, false, subUnassignedOpcode⟩)) := by
  unfold presentRequest at h
  split at h
  next hc =>
    split at h
    · cases h
    next hb =>
      refine ⟨hc, by simpa using hb, ?_⟩
      unfold runRequest at h
      split at h
      next i hi => exact .inl ⟨i, hi, h⟩
      next op ho =>
        cases h
        exact .inr ⟨op, ho, rfl⟩
  · cases h

theorem loadBuffer_next {s' : State} (h : loadBuffer s s' = .next t) : s.busy = false ∧ t = s' := by
  unfold loadBuffer at h
  split at h
  · cases h
  next hb =>
    cases h
    exact ⟨by simpa using hb, rfl⟩

/-- Everything a step can do when it answers a next state: nothing, an operation, an unassigned opcode, a buffer load, a
block reset. -/
theorem step_cases (h : step s = .next t) :
    (s.host = [] ∧ t = s) ∨
    (∃ q rest i, s.host = .request q :: rest ∧ cfgOk s.cfg = true ∧ s.busy = false ∧ decode q = .assigned i ∧
      exec i (({ s with host := rest }).accept q) = .next t) ∨
    (∃ q rest op, s.host = .request q :: rest ∧ cfgOk s.cfg = true ∧ s.busy = false ∧ decode q = .unassigned op ∧
      t = (({ s with host := rest }).accept q).finish ⟨.unsupportedOperation, false, subUnassignedOpcode⟩) ∨
    (∃ bs rest, s.host = .loadBlack bs :: rest ∧ s.busy = false ∧ t = { s with host := rest, blk := Memory.ofBytes bs }) ∨
    (∃ bs rest, s.host = .loadColor bs :: rest ∧ s.busy = false ∧ t = { s with host := rest, col := Memory.ofBytes bs }) ∨
    (∃ rest, s.host = .blockReset :: rest ∧ t = ({ s with host := rest }).blockReset) := by
  unfold step serveNext at h
  split at h
  next hh =>
    cases h
    exact .inl ⟨hh, rfl⟩
  next a rest hh =>
    right
    cases a with
    | request q =>
      obtain ⟨hc, hb, ⟨i, hi, he⟩ | ⟨op, ho, ht⟩⟩ := presentRequest_next h
      · exact .inl ⟨q, rest, i, hh, hc, hb, hi, he⟩
      · exact .inr (.inl ⟨q, rest, op, hh, hc, hb, ho, ht⟩)
    | loadBlack bs =>
      obtain ⟨hb, ht⟩ := loadBuffer_next h
      exact .inr (.inr (.inl ⟨bs, rest, hh, hb, ht⟩))
    | loadColor bs =>
      obtain ⟨hb, ht⟩ := loadBuffer_next h
      exact .inr (.inr (.inr (.inl ⟨bs, rest, hh, hb, ht⟩)))
    | blockReset =>
      cases h
      exact .inr (.inr (.inr (.inr ⟨rest, hh, rfl⟩)))

end Sys2Proof.Machine
end

