-- ==== Sys2Proof/Tests/Slice0.lean ====
section
/-! SUPPORT. Tests on small states, with the results 95_test_vectors.md and 30_encoding.md give, and for each obligation
with hypotheses a concrete state that meets them. -/

namespace Sys2Proof.Tests

open Sys2Proof Sys2Proof.Machine Sys2Proof.Spec

/-! ### Small states and views of an outcome -/

/-- A block bound to a model of `TESTCFG`. -/
def on (id : Byte) (l : Lifecycle) : State := { State.reset with lifecycle := l, bound := true, activeId := id }

/-- A block bound to a model of `TESTCFG_S`. -/
def onS (id : Byte) (l : Lifecycle) : State := { on id l with cfg := Config.testcfgS }

/-- The same state with the transport's next answer. -/
def answering (b : Byte) (s : State) : State := { s with answers := [b] }

/-- The same state with its buffers filled. -/
def holding (blk col : List Byte) (s : State) : State :=
  { s with blk := Memory.ofBytes blk, col := Memory.ofBytes col }

/-- R11's parameters at `true`. -/
def permissive (s : State) : State := { s with cfg := { s.cfg with wakeByInit := true, tempOkInPoff := true } }

/-- The events and the response word of an outcome. -/
def seen : Outcome → String × Nat
  | .next s => (logText s.log, s.rsp.toNat)
  | .fault f => nomatch f
  | .refused _ => ("refused", 0)

/-- The lifecycle an outcome leaves. -/
def life : Outcome → Option Lifecycle
  | .next s => some s.lifecycle
  | _ => none

/-- Why an outcome stops. -/
def why : Outcome → Option Refusal
  | .refused r => some r
  | _ => none

/-- A RAM cell after an outcome. -/
def cellAfter (plane : Byte) (col row : Nat) : Outcome → Option Byte
  | .next s => s.receiver.cell plane col row
  | _ => none

/-! ### Ill-formed source lines are refused (R83, R84) -/

theorem test_wf_bind : (SourceLine.bind 255).wf = true ∧ (SourceLine.bind 256).wf = false := by decide
theorem test_wf_clear : (SourceLine.clear 1).wf = true ∧ (SourceLine.clear 2).wf = false := by decide
theorem test_wf_writeImage : (SourceLine.writeImage 1 1 65535 65535 65535 65535).wf = true := by decide
theorem test_wf_writeImage_bp : (SourceLine.writeImage 2 0 0 0 8 1).wf = false := by decide
theorem test_wf_writeImage_cp : (SourceLine.writeImage 0 2 0 0 8 1).wf = false := by decide
theorem test_wf_writeImage_x : (SourceLine.writeImage 0 0 65536 0 8 1).wf = false := by decide
theorem test_wf_writeImage_y : (SourceLine.writeImage 0 0 0 65536 8 1).wf = false := by decide
theorem test_wf_writeImage_w : (SourceLine.writeImage 0 0 0 0 65536 1).wf = false := by decide
theorem test_wf_writeImage_h : (SourceLine.writeImage 0 0 0 0 8 65536).wf = false := by decide
theorem test_wf_forceTemperature :
    (SourceLine.forceTemperature (-128)).wf = true ∧ (SourceLine.forceTemperature 127).wf = true ∧
    (SourceLine.forceTemperature (-129)).wf = false ∧ (SourceLine.forceTemperature 128).wf = false := by decide
theorem test_wf_black : (SourceLine.black [0, 255]).wf = true ∧ (SourceLine.black [0, 256]).wf = false := by decide
theorem test_wf_color : (SourceLine.color [0, 255]).wf = true ∧ (SourceLine.color [0, 256]).wf = false := by decide
theorem test_assemble_refuses_ill_formed : assemble (.bind 256) = none ∧ assemble (.color [256]) = none := by decide

/-! ### Ill-formed configurations are refused (R7, R9, R10) -/

/-- `TESTCFG` with another catalog. -/
def withCatalog (ms : List Model) : Cfg := { Config.testcfg with catalog := ms }

/-- `TESTCFG` with other descriptors. -/
def withDrivers (a b c : Driver) : Cfg := { Config.testcfg with drivers := [(0, a), (1, b), (2, c)] }

theorem test_cfg_reference : cfgOk Config.testcfg = true ∧ cfgOk Config.testcfgS = true := by decide
theorem test_cfg_duplicate_id : cfgOk (withCatalog [Config.model1, { Config.model2 with id := 1 }]) = false := by decide
theorem test_cfg_duplicate_driver :
    cfgOk { Config.testcfg with drivers := [(0, Config.drvA), (1, Config.drvB), (0, Config.drvC)] } = false := by decide
theorem test_cfg_width :
    modelOk Config.testcfg { Config.model1 with width := 0 } = false ∧
    modelOk Config.testcfg { Config.model1 with width := 65536 } = false := by decide
theorem test_cfg_height :
    modelOk Config.testcfg { Config.model1 with height := 0 } = false ∧
    modelOk Config.testcfg { Config.model1 with height := 65536 } = false := by decide
theorem test_cfg_missing_driver : modelOk Config.testcfg { Config.model1 with driver := 7 } = false := by decide
theorem test_cfg_color_not_served :
    modelOk (withDrivers { Config.drvA with colors := [.bwr] } Config.drvB Config.drvC) Config.model1 = false := by decide
theorem test_cfg_counter_width :
    (∀ w ∈ [2048, 2049], modelOk
      (withDrivers Config.drvA
        { Config.drvB with initTables := [⟨w, 300, .bwr, Config.counterInit 0x2B 0x01⟩] } Config.drvC)
      { Config.model3 with width := w } = decide (w = 2048)) := by decide
theorem test_cfg_init_table_of_five :
    modelOk (withDrivers { Config.drvA with initTables := [⟨400, 300, .bw, [⟨0, []⟩]⟩] } Config.drvB Config.drvC)
      Config.model1 = false := by decide
theorem test_cfg_fast_table :
    modelOk (withDrivers Config.drvA Config.drvB { Config.drvC with initFastTables := [] }) Config.model4 = false := by
  decide
theorem test_cfg_timeouts :
    driverOk { Config.drvA with tRefresh := 30001 } = false ∧ driverOk { Config.drvA with tPon := 99 } = false ∧
    driverOk { Config.drvA with tPoff := 99 } = false ∧ driverOk { Config.drvA with tTemp := 99 } = false ∧
    driverOk { Config.drvA with tPon := 201 } = false := by decide
theorem test_cfg_doubleHeight_filler : driverOk { Config.drvC with fillerBlack := 0xFF } = false := by decide
theorem test_cfg_three_descriptors : driverSetOk [Config.drvA, Config.drvB, Config.drvC, Config.drvA] = false := by decide
theorem test_cfg_window_style :
    driverSetOk [{ Config.drvA with addrStyle := .counter }, Config.drvB, { Config.drvC with addrStyle := .counter }]
      = false := by decide
theorem test_cfg_counter_style :
    driverSetOk [Config.drvA, { Config.drvB with addrStyle := .window }, Config.drvC] = false := by decide
theorem test_cfg_sequential_bw_bwr :
    driverSetOk [{ Config.drvA with colors := [.bwr] }, Config.drvB, Config.drvC] = false := by decide
theorem test_cfg_one_doubleHeight :
    driverSetOk [Config.drvA, { Config.drvB with planeStrategy := .doubleHeight }, Config.drvC] = false := by decide
theorem test_cfg_some_fast_init :
    driverSetOk [Config.drvA, Config.drvB, { Config.drvC with hasInitFast := false }] = false := by decide
theorem test_cfg_some_sleep_arg :
    driverSetOk [{ Config.drvA with sleepArgs := [] }, { Config.drvB with sleepArgs := [] },
      { Config.drvC with sleepArgs := [] }] = false := by decide
theorem test_cfg_some_pre_update :
    driverSetOk [Config.drvA, { Config.drvB with tempPreUpdate := none }, Config.drvC] = false := by decide
theorem test_cfg_some_pre_cascade :
    driverSetOk [{ Config.drvA with forcePreCascade := none }, Config.drvB, { Config.drvC with forcePreCascade := none }]
      = false := by decide
theorem test_cfg_some_window_reset :
    driverSetOk [Config.drvA, { Config.drvB with refreshResetsWindow := false }, Config.drvC] = false := by decide

/-! ### Decoding: the words of 30_encoding.md R64 and 95_test_vectors.md 3.1 -/

theorem test_decode_bind : decode 0x010002000000000000000000 = .assigned (.bind 2) := by decide
theorem test_decode_init : decode 0x020000000000000000000000 = .assigned .init := by decide
theorem test_decode_initFast : decode 0x030000000000000000000000 = .assigned .initFast := by decide
theorem test_decode_clear :
    decode 0x040000000000000000000000 = .assigned (.clear false) ∧
    decode 0x04FC00000000000000000000 = .assigned (.clear true) := by decide
theorem test_decode_writeImage :
    decode 0x05030000000D0102000B0002 = .assigned (.writeImage true true 13 258 11 2) := by decide
theorem test_decode_writeImage_one_plane :
    decode 0x05010000018C012B00090002 = .assigned (.writeImage true false 396 299 9 2) := by decide
theorem test_decode_refresh : decode 0x060000000000000000000000 = .assigned .refresh := by decide
theorem test_decode_sleep : decode 0x070000000000000000000000 = .assigned .sleep := by decide
theorem test_decode_readTemperature : decode 0x080000000000000000000000 = .assigned .readTemperature := by decide
theorem test_decode_forceTemperature :
    decode 0x090080000000000000000000 = .assigned (.forceTemperature 0x80) := by decide
theorem test_decode_getActiveModel : decode 0x0A0000000000000000000000 = .assigned .getActiveModel := by decide
theorem test_decode_lutDump : decode 0x0B0000000000000000000000 = .assigned .lutDump := by decide
theorem test_decode_ramStream : decode 0x0C0000000000000000000000 = .assigned .ramStream := by decide
theorem test_decode_unassigned :
    decode 0x000000000000000000000000 = .unassigned 0x00 ∧ decode 0x0D0000000000000000000000 = .unassigned 0x0D ∧
    decode 0xFF0000000000000000000000 = .unassigned 0xFF := by decide
theorem test_decodeTableWord : decodeTableWord 96 0x040400000000000000000000 = some (.clear true) := by decide
theorem test_assemble_words :
    assemble (.forceTemperature (-5)) = some (.request 0x0900FB000000000000000000) ∧
    assemble (.writeImage 1 1 13 258 11 2) = some (.request 0x05030000000D0102000B0002) := by decide

/-! ### Operations: 95_test_vectors.md 3.5 to 3.9 and programs P1 to P5 -/

theorem test_step_bind :
    seen (step (State.reset.withFetchWord 96 0x010002000000000000000000)) =
      ("RST(0,10) C(00) D[0F] C(06) D[17 17 17] C(61) D[01 90 01 2C] C(50) D[77] C(30) D[3C]", 0x000) := by decide
theorem test_bind_unknown : seen (exec (.bind 9) State.reset) = ("", 0x201) := by decide
theorem test_init :
    seen (exec .init (onS 6 .init)) =
      ("RST(0,10) C(11) D[03] C(0C) D[D7 D6 9D] C(01) D[F9 00 00] C(3C) D[05] C(18) D[80]", 0x000) := by decide
theorem test_init_wakes : life (exec .init (permissive (on 1 .sleep))) = some .init := by decide
theorem test_initFast :
    seen (exec .initFast (on 4 .init)) =
      ("RST(0,10) C(00) D[0F] C(06) D[17 17 17] C(61) D[01 90 01 2C] C(50) D[37] C(30) D[3C] C(E0) D[02] C(E5) D[5A] " ++
       "C(04) W(1,200) C(02) W(1,200)", 0x000) := by decide
theorem test_initFast_absent : seen (exec .initFast (on 2 .sleep)) = ("", 0x602) := by decide
theorem test_clear :
    seen (exec (.clear true) (answering 0x19 (on 2 .init))) =
      ("F(10,FF,15000) F(13,FF,15000) C(04) W(1,200) C(40) W(1,100) R(1)->[19] C(12) W(1,30000) C(02) W(1,200)",
       0x000) := by decide
theorem test_clear_doubleHeight : seen (exec (.clear false) (on 4 .poff)) = ("F(10,55,30000)", 0x000) := by decide
theorem test_writeImage_counter :
    seen (exec (.writeImage true true 13 258 11 2)
      (holding [0x01, 0x02, 0x03, 0x04] [0xF1, 0xF2, 0xF3, 0xF4] (on 3 .init))) =
      ("C(44) D[01 02] C(45) D[02 01 03 01] C(4E) D[01] C(4F) D[02 01] C(24) D[01 02 03 04] C(26) D[F1 F2 F3 F4]",
       0x000) := by decide
theorem test_writeImage_window :
    seen (exec (.writeImage true false 392 298 8 2) (holding [0x12, 0x34] [] (on 2 .init))) =
      ("C(90) D[01 88 01 8F 01 2A 01 2B] C(10) D[12 34] C(13) D[FF FF]", 0x000) := by decide
theorem test_refresh :
    seen (exec .refresh (answering 0x19 (onS 6 .init))) =
      ("C(F1) W(0,100) C(22) D[B1] C(1B) W(0,100) R(1)->[19] C(20) W(0,30000) C(44) D[00 0F] C(45) D[00 00 F9 00] " ++
       "C(4E) D[00] C(4F) D[00 00] C(F0) W(0,100)", 0x000) := by decide
theorem test_refresh_lifecycle : life (exec .refresh (answering 0x80 (on 2 .poff))) = some .poff := by decide
theorem test_sleep : seen (exec .sleep (on 3 .poff)) = ("C(10) D[01]", 0x000) := by decide
theorem test_sleep_powered : seen (exec .sleep (on 1 .pon)) = ("C(02) W(1,200) C(07) D[A5]", 0x000) := by decide
theorem test_readTemperature :
    seen (exec .readTemperature (answering 0xFB (on 1 .init))) = ("C(40) W(1,100) R(1)->[FB]", 0x1FB) := by decide
theorem test_readTemperature_in_poff :
    why (exec .readTemperature (on 1 .poff)) = some .lifecycleCell ∧
    life (exec .readTemperature (permissive (on 1 .poff))) = some .poff := by decide
theorem test_forceTemperature :
    seen (exec (.forceTemperature 0xFB) (on 1 .init)) = ("C(E0) D[02] C(E5) D[FB]", 0x000) := by decide
theorem test_forceTemperature_plain :
    seen (exec (.forceTemperature 0x19) (on 3 .init)) = ("C(1A) D[19]", 0x000) := by decide
theorem test_getActiveModel : seen (exec .getActiveModel (on 1 .sleep)) = ("", 0x101) := by decide
theorem test_getActiveModel_unbound : seen (exec .getActiveModel State.reset) = ("", 0x000) := by decide
theorem test_lutDump : seen (exec .lutDump (on 2 .init)) = ("", 0x602) := by decide
theorem test_ramStream : seen (exec .ramStream State.reset) = ("", 0x202) := by decide
theorem test_unassigned : seen (step (State.reset.withFetchWord 96 0x0D0000000000000000000000)) = ("", 0x601) := by decide

/-- 95_test_vectors.md 3.9 (a): the golden bytes of a counter-style write. -/
theorem test_receiver_cells :
    let o := exec (.writeImage true true 13 258 11 2)
      (holding [0x01, 0x02, 0x03, 0x04] [0xF1, 0xF2, 0xF3, 0xF4] (on 3 .init))
    cellAfter 0x24 1 258 o = some 0x01 ∧ cellAfter 0x24 2 258 o = some 0x02 ∧ cellAfter 0x24 1 259 o = some 0x03 ∧
    cellAfter 0x26 2 259 o = some 0xF4 ∧ cellAfter 0x24 3 258 o = none := by decide

/-- 95_test_vectors.md 3.3: the exclusive end convention. -/
theorem test_exclusive_end :
    logText (setWindow { Config.drvB with endInclusive := false } 8 258 16 2) =
      "C(44) D[01 03] C(45) D[02 01 04 01] C(4E) D[01] C(4F) D[02 01]" := by decide

/-- 95_test_vectors.md 3.1: STATUS after BIND 2, after a REFRESH, after SLEEP. -/
theorem test_status :
    (on 2 .init).status = 0x0209 ∧ (on 2 .poff).status = 0x020B ∧ (on 2 .sleep).status = 0x020C ∧
    State.reset.status = 0x0000 := by decide

/-- 20_memory.md R43, 41_pixel_packing.md R109: a plane of 400 by 300 has 15000 bytes, doubled for the 2-bit controller. -/
theorem test_plane_extent :
    planeExtent Config.drvA Config.model2 = 15000 ∧ planeExtent Config.drvC Config.model4 = 30000 := by decide

/-- 00_scope.md R8: two models alike in width, height and colour may have different fast tables. -/
theorem test_fast_table_by_model :
    let d := { Config.drvC with
      initFastTables := [⟨Config.model4, [⟨1, []⟩]⟩, ⟨{ Config.model4 with id := 5 }, [⟨2, []⟩]⟩] }
    initFastTable d Config.model4 = [⟨1, []⟩] ∧ initFastTable d { Config.model4 with id := 5 } = [⟨2, []⟩] := by decide

/-- 95_test_vectors.md 3.2: the row that wraps in 16 bits does not wrap here. -/
theorem test_bounds_exact : bounds 65528 0 16 1 Config.model1 = (false, true) := by decide

/-! ### Witnesses: states and operands that meet the hypotheses of the obligations -/

/-- The models of the two configurations with their drivers. -/
theorem bound_model2 (l : Lifecycle) : Bound (on 2 l) Config.model2 Config.drvA := ⟨rfl, by cases l <;> decide⟩
theorem bound_model3 (l : Lifecycle) : Bound (on 3 l) Config.model3 Config.drvB := ⟨rfl, by cases l <;> decide⟩
theorem bound_model4 (l : Lifecycle) : Bound (on 4 l) Config.model4 Config.drvC := ⟨rfl, by cases l <;> decide⟩
theorem bound_model6 (l : Lifecycle) : Bound (onS 6 l) Config.model6 Config.drvS := ⟨rfl, by cases l <;> decide⟩

/-- A state about to serve an action. -/
def serving (a : HostAction) : State := { State.reset with host := [a] }

theorem witness_DecodeTotalByOpcode :
    ∀ op ∈ [(1 : Nat), 12], 1 ≤ (BitVec.extractLsb' 88 8 (BitVec.ofNat 96 (op * 2 ^ 88))).toNat ∧
      (BitVec.extractLsb' 88 8 (BitVec.ofNat 96 (op * 2 ^ 88))).toNat ≤ 12 := by decide
theorem witness_DecodeTotalByOpcode_unassigned :
    ∀ op ∈ [(0 : Nat), 13, 255], ¬(1 ≤ (BitVec.extractLsb' 88 8 (BitVec.ofNat 96 (op * 2 ^ 88))).toNat ∧
      (BitVec.extractLsb' 88 8 (BitVec.ofNat 96 (op * 2 ^ 88))).toNat ≤ 12) := by decide
theorem witness_DecodeIgnoresUnusedBits :
    let q : RequestWord := 0x05FD77991234000156789ABC
    let q' : RequestWord := 0x050100001234000156789ABC
    q ≠ q' ∧ q &&& usedBits (q.extractLsb' 88 8) = q' &&& usedBits (q.extractLsb' 88 8) := by decide
theorem witness_TemperatureByteRoundTrip : ∀ v ∈ [(-128 : Int), 127], -128 ≤ v ∧ v ≤ 127 := by decide
theorem witness_ResponsePresented :
    exec .getActiveModel (on 2 .init) = .next (answered ⟨.ok, true, 2⟩ (on 2 .init)) := rfl
theorem witness_StepRunsDecodedRequest :
    let s := serving (.request 0x010002000000000000000000)
    s.host = .request 0x010002000000000000000000 :: [] ∧ cfgOk s.cfg = true ∧ s.busy = false ∧
      decode 0x010002000000000000000000 = .assigned (.bind 2) := by decide
theorem witness_UnassignedOpcodeAnswersUnsupported :
    let s := serving (.request 0x0D0000000000000000000000)
    s.host = .request 0x0D0000000000000000000000 :: [] ∧ cfgOk s.cfg = true ∧ s.busy = false ∧
      decode 0x0D0000000000000000000000 = .unassigned 0x0D := by decide
theorem witness_PortRefusals_cfg :
    let s := { serving (.request 0) with cfg := withCatalog [Config.model1, Config.model1] }
    s.host = .request 0 :: [] ∧ cfgOk s.cfg = false := by decide
theorem witness_PortRefusals_busy :
    let s := { serving (.request 0) with busy := true }
    s.host = .request 0 :: [] ∧ cfgOk s.cfg = true ∧ s.busy = true := by decide
theorem witness_PortRefusals_buffers :
    let s := { serving (.loadBlack [1]) with busy := true }
    let s' := { serving (.loadColor [1]) with busy := true }
    s.host = .loadBlack [1] :: [] ∧ s.busy = true ∧ s'.host = .loadColor [1] :: [] ∧ s'.busy = true := by decide
theorem witness_HostFillsBuffers :
    (serving (.loadBlack [1, 2])).busy = false ∧ (serving (.loadBlack [1, 2])).host = .loadBlack [1, 2] :: [] ∧
    (serving (.loadColor [1, 2])).busy = false ∧ (serving (.loadColor [1, 2])).host = .loadColor [1, 2] :: [] := by decide
theorem witness_BlockResetRestoresRegisters :
    ({ on 2 .sleep with host := [.blockReset] } : State).host = .blockReset :: [] := by decide
theorem inv_on (l : Lifecycle) (h : l ≠ .pon) (hu : l ≠ .uninit) (hs : List HostAction) :
    ({ on 2 l with host := hs } : State).Inv where
  idle := ⟨rfl, rfl⟩
  bound := ⟨fun _ => hu, fun _ => rfl⟩
  notOn := h
  active _ := by show (findModelDriver Config.testcfg 2).isSome = true; decide
  memories := ⟨.nil, .nil, .nil⟩
  log _ he := by cases he
  grouped := rfl
  waits _ _ he := by cases he
  response := rfl
theorem witness_StepKeepsInvariant :
    ∃ t, ({ on 2 .init with host := [.request 0x0B0000000000000000000000] } : State).Inv ∧
      step { on 2 .init with host := [.request 0x0B0000000000000000000000] } = .next t :=
  ⟨_, inv_on .init (by decide) (by decide) _, rfl⟩
theorem witness_LogIsAppendOnly : ∃ t, step (serving .blockReset) = .next t := ⟨_, rfl⟩
theorem witness_BindBindsAndInitialises :
    State.reset.bound = false ∧ findModelDriver State.reset.cfg 2 = some (Config.model2, Config.drvA) := by decide
theorem witness_BindTwiceRejected : (on 2 .sleep).bound = true := by decide
theorem witness_BindUnknownIdRejected : State.reset.bound = false ∧ ∀ m ∈ State.reset.cfg.catalog, m.id ≠ 9 := by decide
theorem witness_LookupFindsTheCatalogEntry :
    cfgOk Config.testcfg = true ∧ findModelDriver Config.testcfg 4 = some (Config.model4, Config.drvC) ∧
      Config.model4 ∈ Config.testcfg.catalog ∧ Config.model4.id = 4 ∧
      (Config.model4.driver, Config.drvC) ∈ Config.testcfg.drivers := by decide
theorem witness_InitTableIsTheGeometrys :
    cfgOk Config.testcfg = true ∧ findModelDriver Config.testcfg 4 = some (Config.model4, Config.drvC) ∧
      Config.drvC.hasInitFast = true := by decide
theorem witness_InitRunsItsTable :
    (Bound (on 2 .init) Config.model2 Config.drvA ∧ InitCell (on 2 .init)) ∧
    (Bound (on 2 .poff) Config.model2 Config.drvA ∧ InitCell (on 2 .poff)) ∧ InitCell (permissive (on 2 .sleep)) :=
  ⟨⟨bound_model2 _, .inl rfl⟩, ⟨bound_model2 _, .inr (.inl rfl)⟩, .inr (.inr ⟨rfl, rfl⟩)⟩
theorem witness_InitFastRunsItsTableAndBracket :
    Bound (on 4 .init) Config.model4 Config.drvC ∧ Config.drvC.hasInitFast = true ∧ InitCell (on 4 .init) :=
  ⟨bound_model4 _, rfl, .inl rfl⟩
theorem witness_InitFastAbsentAnswersUnsupported :
    Bound (on 2 .sleep) Config.model2 Config.drvA ∧ Config.drvA.hasInitFast = false := ⟨bound_model2 _, rfl⟩
theorem witness_ClearFillsThenMayRefresh : Bound (on 4 .poff) Config.model4 Config.drvC ∧ ImageCell (on 4 .poff) :=
  ⟨bound_model4 _, .inr rfl⟩
theorem witness_RefreshRunsItsBracket : Bound (on 3 .init) Config.model3 Config.drvB ∧ ImageCell (on 3 .init) :=
  ⟨bound_model3 _, .inl rfl⟩
theorem witness_SleepSendsDeepSleep :
    Bound (on 2 .poff) Config.model2 Config.drvA ∧ SleepCell (on 2 .poff) ∧ SleepCell (on 2 .pon) :=
  ⟨bound_model2 _, .inr (.inr rfl), .inr (.inl rfl)⟩
theorem witness_ReadTemperatureReturnsTheAnswer :
    Bound (on 3 .init) Config.model3 Config.drvB ∧ TempCell (on 3 .init) ∧
    (answering 0x80 (on 3 .init)).answers = 0x80 :: [] := ⟨bound_model3 _, .inl rfl, rfl⟩
theorem witness_ForceTemperatureSendsTheByte :
    Bound (on 2 .init) Config.model2 Config.drvA ∧ TempCell (on 2 .init) ∧ TempCell (permissive (on 2 .poff)) :=
  ⟨bound_model2 _, .inl rfl, .inr (.inr ⟨rfl, rfl⟩)⟩
theorem witness_GetActiveModelAnswers : (on 2 .sleep).bound = true ∧ State.reset.bound = false := by decide
theorem witness_NamedOnlyOperationsAnswerErrors :
    (Instr.lutDump = Instr.lutDump ∨ Instr.lutDump = Instr.ramStream) ∧ (on 2 .sleep).bound = true ∧
      State.reset.bound = false := by decide
theorem witness_NotBoundComesFirst :
    State.reset.bound = false ∧ (∀ id, Instr.writeImage true false 390 0 20 16 ≠ .bind id) ∧
      Instr.writeImage true false 390 0 20 16 ≠ .getActiveModel := ⟨rfl, fun _ => by simp, by simp⟩

/-- A bound block with buffers, for the image statements: the bottom-right corner of the panel (P3). -/
def corner : State := holding [0x12, 0x34] [] (on 2 .init)

theorem bound_corner : Bound corner Config.model2 Config.drvA := ⟨rfl, by decide⟩
theorem corner_holds : Holds corner.blk true (alignedW 8 / 8 * 2) := fun _ => by decide
theorem witness_WriteImageSendsWindowAndStream :
    Bound corner Config.model2 Config.drvA ∧ ImageCell corner ∧ (8 : Half) ≠ 0 ∧ (2 : Half) ≠ 0 ∧
    Inside Config.model2 392 298 8 2 ∧ Holds corner.blk true (alignedW 8 / 8 * (2 : Half).toNat) ∧
    Holds corner.col false (alignedW 8 / 8 * (2 : Half).toNat) :=
  ⟨bound_corner, .inl rfl, by decide, by decide, ⟨by decide, by decide⟩, corner_holds, fun h => by cases h⟩
theorem witness_WriteImageOutOfBoundsRejected :
    Bound corner Config.model2 Config.drvA ∧ ImageCell corner ∧ (9 : Half) ≠ 0 ∧ (2 : Half) ≠ 0 ∧
    ¬Inside Config.model2 392 298 9 2 ∧ ¬Inside Config.model2 392 299 8 2 :=
  ⟨bound_corner, .inl rfl, by decide, by decide, by unfold Inside; decide, by unfold Inside; decide⟩
theorem witness_WriteImageRefusals :
    Bound corner Config.model2 Config.drvA ∧ ImageCell corner ∧ Inside Config.model2 392 297 8 3 ∧
    ¬(Holds corner.blk true (alignedW 8 / 8 * (3 : Half).toNat) ∧
      Holds corner.col false (alignedW 8 / 8 * (3 : Half).toNat)) :=
  ⟨bound_corner, .inl rfl, ⟨by decide, by decide⟩, fun h => absurd (h.1 rfl 2 (by decide)) (by decide)⟩
theorem witness_RefuseCells :
    (∀ l, Bound (on 4 l) Config.model4 Config.drvC) ∧ Config.drvC.hasInitFast = true ∧ ¬InitCell (on 4 .sleep) ∧
    ¬ImageCell (on 4 .sleep) ∧ ¬ImageCell (on 4 .pon) ∧ ¬SleepCell (on 4 .sleep) ∧ ¬TempCell (on 4 .poff) :=
  ⟨bound_model4, rfl, by unfold InitCell; decide, by unfold ImageCell; decide, by unfold ImageCell; decide,
    by unfold SleepCell; decide, by unfold TempCell; decide⟩
theorem witness_NothingElseStops :
    exec .refresh (on 2 .sleep) = .refused .lifecycleCell ∧ (on 2 .sleep).bound = true ∧
    (on 2 .sleep).active = some (Config.model2, Config.drvA) := ⟨rfl, rfl, by decide⟩
theorem witness_NothingElseStops_unbound :
    let s := { State.reset with cfg := { Config.testcfg with drivers := [] } }
    exec (.bind 2) s = .refused .noActiveModel ∧ s.bound = false := ⟨rfl, rfl⟩
theorem witness_LifecycleAtTheEnd :
    (∃ t, exec .sleep (on 2 .init) = .next t ∧ t.response.result = .ok) ∧
    (∃ t, exec .initFast (on 2 .init) = .next t ∧ t.response.result ≠ .ok) :=
  ⟨⟨_, rfl, rfl⟩, ⟨_, rfl, by decide⟩⟩
theorem witness_ErrorsArePrecise :
    ∃ t, exec (.writeImage true false 390 0 20 16) (on 2 .init) = .next t ∧ t.response.result ≠ .ok :=
  ⟨_, rfl, by decide⟩
theorem witness_BoundChangesOnlyInBind : ∃ t, exec (.bind 2) State.reset = .next t := ⟨_, rfl⟩
theorem witness_ResponseValueOnlyWhereGiven : ∃ t, exec .readTemperature (on 2 .init) = .next t := ⟨_, rfl⟩
theorem witness_FrameOfEveryOperation :
    ∃ t, exec .sleep (on 2 .init) = .next t ∧ ∀ bp cp x y w h, Instr.sleep ≠ .writeImage bp cp x y w h :=
  ⟨_, rfl, fun _ _ _ _ _ _ => by simp⟩
theorem witness_ReadBytesDoNotSteer : Instr.refresh ≠ .readTemperature := by decide
theorem witness_SleepIsTerminal :
    Bound (on 2 .sleep) Config.model2 Config.drvA ∧ (on 2 .sleep).lifecycle = .sleep ∧
    (on 2 .sleep).cfg.wakeByInit = false := ⟨bound_model2 _, rfl, rfl⟩
theorem witness_ClearWithRefreshIsClearThenRefresh :
    Bound (on 2 .init) Config.model2 Config.drvA ∧ ImageCell (on 2 .init) := ⟨bound_model2 _, .inl rfl⟩
theorem witness_BindEmitsWhatInitWould :
    ∃ t, State.reset.bound = false ∧ exec (.bind 3) State.reset = .next t ∧ t.response.result = .ok :=
  ⟨_, rfl, rfl, rfl⟩
theorem witness_AlignmentProperties :
    Config.model2.width % 8 = 0 ∧ 399 + 1 ≤ Config.model2.width := by decide
theorem witness_AcceptedWriteImageGeometry :
    ∃ t, Bound corner Config.model2 Config.drvA ∧
      exec (.writeImage true false 392 298 8 2) corner = .next t ∧ t.response.result = .ok :=
  ⟨_, bound_corner, rfl, rfl⟩
theorem witness_WindowStyleEncoding :
    Config.drvA.addrStyle = .window ∧ 1 ≤ 8 ∧ 1 ≤ 1 ∧ 65528 + 8 ≤ 65536 ∧ 65535 + 1 ≤ 65536 := by decide

/-- `DRV_B` with the exclusive end convention. -/
def exclusiveB : Driver := { Config.drvB with endInclusive := false }

theorem endColumn_inclusive : EndColumnFits Config.drvB 2040 8 := fun _ => by decide
theorem endColumn_exclusive : EndColumnFits exclusiveB 2040 8 := fun _ => by decide
theorem endColumn_window (x w : Nat) : EndColumnFits Config.drvA x w := fun h => by cases h
theorem witness_CounterStyleEncoding :
    (Config.drvB.addrStyle = .counter ∧ 2040 + 8 ≤ 65536 ∧ 65535 + 1 ≤ 65536 ∧ EndColumnFits Config.drvB 2040 8) ∧
    (exclusiveB.addrStyle = .counter ∧ exclusiveB.endInclusive = false ∧ 65534 + 1 ≤ 65535 ∧
      EndColumnFits exclusiveB 2040 8 ∧ ¬(2040 + 8 - 1) / 8 + (if exclusiveB.endInclusive then 0 else 1) < 256 ∧
      (2032 + 8 - 1) / 8 + (if exclusiveB.endInclusive then 0 else 1) < 256) :=
  ⟨⟨rfl, by decide, by decide, endColumn_inclusive⟩, rfl, rfl, by decide, endColumn_exclusive, by decide, by decide⟩
theorem witness_PlaneBytesInOrder : 2 * 2 ≤ [(0x11 : Byte), 0x22, 0x33, 0x44].length := by decide
theorem codesApart_A : CodesApart Config.drvA Config.model2 := ⟨fun _ => by decide, show isRamCmd _ _ _ = false by decide⟩
theorem codesApart_B : CodesApart Config.drvB Config.model3 :=
  ⟨fun _ => by decide, show isRamCmd _ _ _ = false ∧ _ by decide⟩
theorem codesApart_exclusiveB : CodesApart exclusiveB Config.model3 :=
  ⟨fun _ => by decide, show isRamCmd _ _ _ = false ∧ _ by decide⟩
theorem witness_SetWindowProgramsReceiver :
    (CodesApart Config.drvA Config.model2 ∧ 65528 + 8 ≤ 65536 ∧ 65535 + 1 ≤ 65536 ∧ EndColumnFits Config.drvA 65528 8) ∧
    (CodesApart exclusiveB Config.model3 ∧ exclusiveB.addrStyle = .counter ∧ exclusiveB.endInclusive = false ∧
      65534 + 1 ≤ 65535 ∧ EndColumnFits exclusiveB 2040 8) :=
  ⟨⟨codesApart_A, by decide, by decide, endColumn_window _ _⟩, codesApart_exclusiveB, rfl, rfl, by decide,
    endColumn_exclusive⟩

/-- A receiver with a two-row window of one byte-column. -/
def windowed (col row : Nat) : Receiver := { Receiver.unknown with cols := some ⟨col, 1⟩, rows := some ⟨row, 2⟩ }

/-- The window at the last byte-column and the last rows of the 400 by 300 plane, and one a row further. -/
theorem inside_corner : InsidePlane Config.drvA Config.model2 ⟨49, 1⟩ ⟨298, 2⟩ := by unfold InsidePlane; decide
theorem outside_corner : ¬InsidePlane Config.drvA Config.model2 ⟨49, 1⟩ ⟨299, 2⟩ := by unfold InsidePlane; decide
theorem inside_doubled : InsidePlane Config.drvC Config.model4 ⟨49, 1⟩ ⟨598, 2⟩ := by unfold InsidePlane; decide

theorem witness_RamWriteIsRowMajor :
    (windowed 49 298).window Config.drvA = some (⟨49, 1⟩, ⟨298, 2⟩) ∧ OpensPlane Config.drvA Config.model2 0x10 ∧
    Config.model2.width ≤ 65535 ∧ InsidePlane Config.drvA Config.model2 ⟨49, 1⟩ ⟨298, 2⟩ ∧
    [(0x12 : Byte), 0x34].length ≤ 1 * 2 ∧ [(0x12 : Byte), 0x34][1]? = some 0x34 :=
  ⟨by decide, .inl rfl, by decide, inside_corner, by decide, by decide⟩
theorem witness_RamWriteIsRowMajor_beyond :
    (windowed 49 299).window Config.drvA = some (⟨49, 1⟩, ⟨299, 2⟩) ∧
    ¬InsidePlane Config.drvA Config.model2 ⟨49, 1⟩ ⟨299, 2⟩ ∧ 49 < 8192 ∧
    ¬(49 < (Config.model2.width + 7) / 8 ∧
      300 < (if Config.drvA.planeStrategy = .doubleHeight then 2 * Config.model2.height else Config.model2.height)) :=
  ⟨by decide, outside_corner, by decide, by decide⟩
/-- The colour command of a single-plane model opens no plane (R43). -/
theorem witness_RamWriteIsRowMajor_noPlane :
    ¬OpensPlane Config.drvS Config.model6 Config.model6.cmdRamColor ∧
    ¬OpensPlane Config.drvC Config.model4 Config.model4.cmdRamColor := by
  unfold OpensPlane; decide
theorem witness_GoldenBytes :
    Bound corner Config.model2 Config.drvA ∧ ImageCell corner ∧ (8 : Half) ≠ 0 ∧ (2 : Half) ≠ 0 ∧
    Inside Config.model2 392 298 8 2 ∧ Config.model2.width ≤ 65535 ∧ Config.model2.height ≤ 65535 ∧
    CodesApart Config.drvA Config.model2 ∧ EndColumnFits Config.drvA (alignedX 392) (alignedW 8) ∧
    Config.drvA.planeStrategy ≠ .doubleHeight ∧ Config.drvA.planeStrategy = .sequential ∧
    Holds corner.blk true (alignedW 8 / 8 * (2 : Half).toNat) ∧
    Holds corner.col false (alignedW 8 / 8 * (2 : Half).toNat) :=
  ⟨bound_corner, .inl rfl, by decide, by decide, ⟨by decide, by decide⟩, by decide, by decide, codesApart_A,
    endColumn_window _ _, by decide, rfl, corner_holds, fun h => by cases h⟩
theorem witness_CellsOutsideTheWindowUnchanged :
    ∃ t, Bound corner Config.model2 Config.drvA ∧ Config.model2.width ≤ 65535 ∧ Config.model2.height ≤ 65535 ∧
      CodesApart Config.drvA Config.model2 ∧ EndColumnFits Config.drvA (alignedX 392) (alignedW 8) ∧
      exec (.writeImage true false 392 298 8 2) corner = .next t ∧ 48 < 8192 ∧
      ¬((align 392 8).1 / 8 ≤ 48 ∧ 48 < ((align 392 8).1 + (align 392 8).2) / 8 ∧ 298 ≤ 299 ∧ 299 < 298 + 2) ∧
      ¬OpensPlane Config.drvA Config.model2 0x90 :=
  ⟨_, bound_corner, by decide, by decide, codesApart_A, endColumn_window _ _, rfl, by decide, by decide,
    by unfold OpensPlane; decide⟩
theorem witness_CellsOutsideTheWindowUnchanged_unusedPlane :
    ∃ t, Bound (onS 6 .init) Config.model6 Config.drvS ∧ Config.model6.width ≤ 65535 ∧ Config.model6.height ≤ 65535 ∧
      CodesApart Config.drvS Config.model6 ∧ EndColumnFits Config.drvS (alignedX 112) (alignedW 8) ∧
      exec (.writeImage false false 112 249 8 1) (onS 6 .init) = .next t ∧ 14 < 8192 ∧
      ¬OpensPlane Config.drvS Config.model6 Config.model6.cmdRamColor :=
  ⟨_, bound_model6 _, by decide, by decide, ⟨fun _ => by decide, show isRamCmd _ _ _ = false ∧ _ by decide⟩, fun _ => by decide, rfl,
    by decide, by unfold OpensPlane; decide⟩
theorem witness_ClearFillsTheStaleWindow :
    let s : State := { on 2 .init with receiver := windowed 49 298 }
    Bound s Config.model2 Config.drvA ∧ ImageCell s ∧
    (Config.drvA.planeStrategy = .sequential → Config.model2.cmdRamBlack ≠ Config.model2.cmdRamColor) ∧
    s.receiver.window Config.drvA = some (⟨49, 1⟩, ⟨298, 2⟩) ∧ Config.model2.width ≤ 65535 ∧
    InsidePlane Config.drvA Config.model2 ⟨49, 1⟩ ⟨298, 2⟩ ∧ Config.drvA.planeStrategy = .sequential :=
  ⟨⟨rfl, by decide⟩, .inl rfl, fun _ => by decide, by decide, by decide, inside_corner, rfl⟩
theorem witness_ClearFillsTheStaleWindow_beyond :
    let s : State := { on 2 .init with receiver := windowed 49 299 }
    Bound s Config.model2 Config.drvA ∧ ImageCell s ∧ s.receiver.window Config.drvA = some (⟨49, 1⟩, ⟨299, 2⟩) ∧
    ¬InsidePlane Config.drvA Config.model2 ⟨49, 1⟩ ⟨299, 2⟩ :=
  ⟨⟨rfl, by decide⟩, .inl rfl, by decide, outside_corner⟩
theorem witness_RefreshAndTheWindow :
    (Bound (on 2 .init) Config.model2 Config.drvA ∧ ImageCell (on 2 .init) ∧ CodesApart Config.drvA Config.model2 ∧
      Config.drvA.refreshResetsWindow = false ∧ Config.drvA.tempPreUpdate = none) ∧
    (Bound (on 3 .poff) Config.model3 Config.drvB ∧ ImageCell (on 3 .poff) ∧ CodesApart Config.drvB Config.model3 ∧
      1 ≤ Config.model3.width ∧ Config.model3.width ≤ 65535 ∧ 1 ≤ Config.model3.height ∧ Config.model3.height ≤ 65535 ∧
      Config.drvB.refreshResetsWindow = true ∧ EndColumnFits Config.drvB 0 Config.model3.width ∧
      (∀ c b, Config.drvB.tempPreUpdate = some (c, b) → isAddressing Config.drvB c = false)) :=
  ⟨⟨bound_model2 _, .inl rfl, codesApart_A, rfl, rfl⟩, bound_model3 _, .inr rfl, codesApart_B, by decide, by decide,
    by decide, by decide, rfl, fun _ => by decide, fun c b h => by cases h; decide⟩
theorem witness_OtherOperationsKeepRam :
    ∃ t, Bound (on 3 .init) Config.model3 Config.drvB ∧ isRamCmd Config.drvB Config.model3 Config.drvB.cSleep = false ∧
      isRamCmd Config.drvB Config.model3 Config.drvB.cTforce = false ∧
      (∀ c b, Config.drvB.tempPreUpdate = some (c, b) → isRamCmd Config.drvB Config.model3 c = false) ∧
      (∀ c b, Config.drvB.forcePreCascade = some (c, b) → isRamCmd Config.drvB Config.model3 c = false) ∧
      CodesApart Config.drvB Config.model3 ∧ exec .refresh (on 3 .init) = .next t :=
  ⟨_, bound_model3 _, by decide, by decide, fun c b h => by (cases h; decide), fun c b h => by (cases h), codesApart_B, rfl⟩
theorem witness_EchoedTemperatureRoundTrip :
    Bound (on 2 .init) Config.model2 Config.drvA ∧ TempCell (on 2 .init) ∧
    isRamCmd Config.drvA Config.model2 Config.drvA.cTforce = false ∧ isAddressing Config.drvA Config.drvA.cTforce = false :=
  ⟨bound_model2 _, .inl rfl, by decide, by decide⟩

end Sys2Proof.Tests
end

section
/-! Reading the catalog: what the lookups find under a well-formed `CFG` (00_scope.md R6 to R10). -/

namespace Sys2Proof.Machine

variable {cfg : Cfg} {id : Byte} {m : Model} {d : Driver}

/-- In a list without two entries of one key, searching a key finds exactly the entry that has it. -/
theorem find?_key_eq_some_iff {α κ : Type} [BEq κ] [LawfulBEq κ] {key : α → κ} {k : κ} {l : List α} {a : α}
    (hl : (l.map key).Nodup) : l.find? (fun x => key x == k) = some a ↔ a ∈ l ∧ key a = k := by
  constructor
  · intro h
    exact ⟨List.mem_of_find?_eq_some h, by simpa using List.find?_some h⟩
  · rintro ⟨ha, rfl⟩
    have hsome : (l.find? fun x => key x == key a).isSome = true := List.find?_isSome.2 ⟨a, ha, beq_self_eq_true _⟩
    obtain ⟨b, hb⟩ := Option.isSome_iff_exists.1 hsome
    have hkey : key b = key a := by simpa using List.find?_some hb
    rwa [List.inj_on_of_nodup_map hl (List.mem_of_find?_eq_some hb) ha hkey] at hb

/-- `M` and `D` of R26 are the two lookups, one after the other. -/
theorem findModelDriver_eq_some :
    findModelDriver cfg id = some (m, d) ↔ findModel cfg id = some m ∧ findDriver cfg m.driver = some d := by
  simp only [findModelDriver, Option.bind_eq_some_iff, Option.map_eq_some_iff, Prod.mk.injEq]
  constructor
  · rintro ⟨_, hm, _, hd, rfl, rfl⟩
    exact ⟨hm, hd⟩
  · rintro ⟨hm, hd⟩
    exact ⟨m, hm, d, hd, rfl, rfl⟩

theorem findDriver_mem {name : Nat} (h : findDriver cfg name = some d) : (name, d) ∈ cfg.drivers := by
  obtain ⟨⟨n, _⟩, hp, rfl⟩ := Option.map_eq_some_iff.1 h
  obtain rfl : n = name := by simpa using List.find?_some hp
  exact List.mem_of_find?_eq_some hp

/-! ### What a well-formed `CFG` says -/

theorem cfgOk_nodup_ids (h : cfgOk cfg = true) : (cfg.catalog.map Model.id).Nodup := by
  simp only [cfgOk, Bool.and_eq_true, decide_eq_true_eq] at h
  obtain ⟨⟨⟨⟨hids, _⟩, _⟩, _⟩, _⟩ := h
  exact hids

theorem cfgOk_nodup_names (h : cfgOk cfg = true) : (cfg.drivers.map Prod.fst).Nodup := by
  simp only [cfgOk, Bool.and_eq_true, decide_eq_true_eq] at h
  obtain ⟨⟨⟨⟨_, hnames⟩, _⟩, _⟩, _⟩ := h
  exact hnames

theorem cfgOk_modelOk (h : cfgOk cfg = true) (hm : m ∈ cfg.catalog) : modelOk cfg m = true := by
  simp only [cfgOk, Bool.and_eq_true, List.all_eq_true] at h
  obtain ⟨⟨⟨_, hmodels⟩, _⟩, _⟩ := h
  exact hmodels m hm

theorem cfgOk_driverOk {name : Nat} (h : cfgOk cfg = true) (hd : (name, d) ∈ cfg.drivers) : driverOk d = true := by
  simp only [cfgOk, Bool.and_eq_true, List.all_eq_true] at h
  obtain ⟨⟨_, hdrivers⟩, _⟩ := h
  exact hdrivers d (List.mem_map_of_mem hd)

theorem findModel_eq_some_iff (h : cfgOk cfg = true) : findModel cfg id = some m ↔ m ∈ cfg.catalog ∧ m.id = id :=
  find?_key_eq_some_iff (cfgOk_nodup_ids h)

theorem findDriver_eq_some_iff {name : Nat} (h : cfgOk cfg = true) :
    findDriver cfg name = some d ↔ (name, d) ∈ cfg.drivers := by
  refine ⟨findDriver_mem, fun hd => ?_⟩
  have hp : cfg.drivers.find? (fun p => p.1 == name) = some (name, d) :=
    (find?_key_eq_some_iff (cfgOk_nodup_names h)).2 ⟨hd, rfl⟩
  rw [findDriver, hp]
  rfl

/-- A driver that a lookup finds meets R9. -/
theorem driverOk_of_findModelDriver (h : cfgOk cfg = true) (hf : findModelDriver cfg id = some (m, d)) :
    driverOk d = true := by
  obtain ⟨_, hd⟩ := findModelDriver_eq_some.1 hf
  exact cfgOk_driverOk h (findDriver_mem hd)

/-- What R7 and R9 ask of the tables a model's driver holds for it. -/
theorem modelOk_tables (h : modelOk cfg m = true) (hd : findDriver cfg m.driver = some d) :
    (∃ ws, lookupTable d.initTables m = some ws ∧ ws.length = 5) ∧
      (d.hasInitFast = true → ∃ ws, lookupFastTable d.initFastTables m = some ws) := by
  simp only [modelOk, hd, Bool.and_eq_true, Option.any_eq_true, beq_iff_eq, Bool.or_eq_true,
    Bool.not_eq_true'] at h
  obtain ⟨_, ⟨_, htable⟩, hfast⟩ := h
  exact ⟨htable, fun hf => Option.isSome_iff_exists.1 (hfast.resolve_left (by simp [hf]))⟩

/-! ### Init tables -/

theorem lookupTable_eq_some {tables : List InitTable} {ws : List InitWrite} (h : lookupTable tables m = some ws) :
    ∃ t ∈ tables, t.width = m.width ∧ t.height = m.height ∧ t.color = m.color ∧ t.writes = ws := by
  obtain ⟨t, ht, hw⟩ := Option.map_eq_some_iff.1 h
  have hkey := List.find?_some ht
  simp only [Bool.and_eq_true, beq_iff_eq] at hkey
  obtain ⟨⟨hwidth, hheight⟩, hcolor⟩ := hkey
  exact ⟨t, List.mem_of_find?_eq_some ht, hwidth, hheight, hcolor, hw⟩

theorem lookupFastTable_eq_some {tables : List FastTable} {ws : List InitWrite}
    (h : lookupFastTable tables m = some ws) : ∃ t ∈ tables, t.model = m ∧ t.writes = ws := by
  obtain ⟨t, ht, hw⟩ := Option.map_eq_some_iff.1 h
  exact ⟨t, List.mem_of_find?_eq_some ht, by simpa using List.find?_some ht, hw⟩

theorem initTable_of_lookup {ws : List InitWrite} (h : lookupTable d.initTables m = some ws) : initTable d m = ws := by
  simp [initTable, h]

theorem initFastTable_of_lookup {ws : List InitWrite} (h : lookupFastTable d.initFastTables m = some ws) :
    initFastTable d m = ws := by
  simp [initFastTable, h]

end Sys2Proof.Machine

namespace Sys2Proof.Proofs

open Sys2Proof.Machine

/-- Settles O19: ids and driver names are distinct under a well-formed `CFG`, so each search finds the one entry. -/
theorem lookupFindsTheCatalogEntry : Obligations.LookupFindsTheCatalogEntry := by
  intro cfg id m d hcfg
  rw [findModelDriver_eq_some, findModel_eq_some_iff hcfg, findDriver_eq_some_iff hcfg, and_assoc]

/-- Settles O20: the model's well-formedness says that both lookups succeed, and a lookup answers a table of its key. -/
theorem initTableIsTheGeometrys : Obligations.InitTableIsTheGeometrys := by
  intro cfg id m d hcfg hfind
  obtain ⟨hm, hd⟩ := findModelDriver_eq_some.1 hfind
  have hmem : m ∈ cfg.catalog := ((findModel_eq_some_iff hcfg).1 hm).1
  obtain ⟨⟨ws, htable, hlength⟩, hfast⟩ := modelOk_tables (cfgOk_modelOk hcfg hmem) hd
  rw [initTable_of_lookup htable]
  refine ⟨hlength, lookupTable_eq_some htable, fun hhas => ?_⟩
  obtain ⟨fs, hfs⟩ := hfast hhas
  rw [initFastTable_of_lookup hfs]
  exact lookupFastTable_eq_some hfs

end Sys2Proof.Proofs
end

section
/-! The temperature byte (00_scope.md R12; 30_encoding.md R67, R83). -/

namespace Sys2Proof.Machine

/-- A temperature in the range of a byte is denoted by its two's complement byte (R12). -/
theorem sext8_zext8 {v : Int} (hlo : -128 ≤ v) (hhi : v ≤ 127) : sext8 (zext8 v) = v := by
  have hn : (zext8 v).toNat = (v % 256).toNat := BitVec.toNat_ofInt v
  simp only [sext8, hn]
  split <;> omega

end Sys2Proof.Machine

namespace Sys2Proof.Proofs

open Sys2Proof.Machine

/-- Settles O5: a temperature in range is a well-formed line, and its byte reads back by `sext8_zext8`. -/
theorem temperatureByteRoundTrip : Obligations.TemperatureByteRoundTrip := by
  intro v hlo hhi
  have hwf : (SourceLine.forceTemperature v).wf = true := by simp [SourceLine.wf, hlo, hhi]
  refine ⟨?_, sext8_zext8 hlo hhi⟩
  rw [assemble, if_pos hwf]
  rfl

end Sys2Proof.Proofs
end

section
/-! Lists of events that may stand in LOG: every event of R72's shape, atomic groups whole (R53), every wait in the range
R9 gives. Each sub-sequence of an operation is one. -/

namespace Sys2Proof.Machine

/-- What the invariant asks of LOG, of any list of events. -/
structure GoodEvents (es : List Event) : Prop where
  wf      : ∀ e ∈ es, e.wf = true
  grouped : groupedFrom false es = true
  waits   : ∀ level ms, Event.wait level ms ∈ es → 100 ≤ ms ∧ ms ≤ 30000

/-! ### Atomic groups -/

/-- A list that needs no command before it is whole after one too. -/
theorem groupedFrom_of_false {es : List Event} (h : groupedFrom false es = true) (afterCmd : Bool) :
    groupedFrom afterCmd es = true := by
  cases es with
  | nil => rfl
  | cons e es =>
    cases e with
    | data bs => exact absurd h Bool.false_ne_true
    | cmd | read | reset | wait | fill => exact h

theorem groupedFrom_append {es fs : List Event} {afterCmd : Bool} (he : groupedFrom afterCmd es = true)
    (hf : groupedFrom false fs = true) : groupedFrom afterCmd (es ++ fs) = true := by
  induction es generalizing afterCmd with
  | nil => exact groupedFrom_of_false hf afterCmd
  | cons e es ih =>
    cases e with
    | data bs =>
      simp only [groupedFrom, List.cons_append, Bool.and_eq_true] at he ⊢
      obtain ⟨hafter, he⟩ := he
      exact ⟨hafter, ih he⟩
    | cmd | read | reset | wait | fill => exact ih he

/-! ### Building good lists -/

theorem timeoutOk_iff {t : Nat} : timeoutOk t = true ↔ 100 ≤ t ∧ t ≤ 30000 := by simp [timeoutOk]

theorem driverOk_timeouts {d : Driver} (h : driverOk d = true) :
    timeoutOk d.tPon = true ∧ timeoutOk d.tPoff = true ∧ timeoutOk d.tRefresh = true ∧ timeoutOk d.tTemp = true := by
  simp only [driverOk, Bool.and_eq_true] at h
  obtain ⟨⟨⟨⟨⟨hpon, hpoff⟩, hrefresh⟩, htemp⟩, _⟩, _⟩ := h
  exact ⟨hpon, hpoff, hrefresh, htemp⟩

namespace GoodEvents

variable {es fs : List Event}

theorem nil : GoodEvents [] := ⟨by simp, rfl, by simp⟩

theorem append (he : GoodEvents es) (hf : GoodEvents fs) : GoodEvents (es ++ fs) where
  wf e h := (List.mem_append.1 h).elim (he.wf e) (hf.wf e)
  grouped := groupedFrom_append he.grouped hf.grouped
  waits level ms h := (List.mem_append.1 h).elim (he.waits level ms) (hf.waits level ms)

theorem ite {p : Prop} [Decidable p] (he : GoodEvents es) (hf : GoodEvents fs) :
    GoodEvents (if p then es else fs) := by
  split
  · exact he
  · exact hf

/-- An event of R72's shape that is neither `DATA` nor `WAIT` may stand before a good list. -/
theorem cons {e : Event} (hwf : e.wf = true) (hgroup : groupedFrom false (e :: es) = true)
    (hwait : ∀ level ms, e ≠ .wait level ms) (he : GoodEvents es) : GoodEvents (e :: es) where
  wf := List.forall_mem_cons.2 ⟨hwf, he.wf⟩
  grouped := hgroup
  waits level ms h := he.waits level ms ((List.mem_cons.1 h).resolve_left fun heq => hwait level ms heq.symm)

theorem cmd (c : Byte) (he : GoodEvents es) : GoodEvents (.cmd c :: es) :=
  .cons rfl (groupedFrom_of_false he.grouped true) nofun he

theorem reset (level : Bool) (ms : Nat) (he : GoodEvents es) : GoodEvents (.reset level ms :: es) :=
  .cons rfl he.grouped nofun he

theorem fill (c b : Byte) (n : Nat) (he : GoodEvents es) : GoodEvents (.fill c b n :: es) :=
  .cons rfl he.grouped nofun he

theorem read (b : Byte) (he : GoodEvents es) : GoodEvents (.read 1 [b] :: es) :=
  .cons rfl he.grouped nofun he

theorem wait (level : Bool) {t : Nat} (ht : timeoutOk t = true) (he : GoodEvents es) :
    GoodEvents (.wait level t :: es) where
  wf := List.forall_mem_cons.2 ⟨rfl, he.wf⟩
  grouped := he.grouped
  waits level' ms h := by
    rcases List.mem_cons.1 h with heq | h
    · cases heq
      exact timeoutOk_iff.1 ht
    · exact he.waits level' ms h

/-- A whole atomic group: a command and its bytes, at least one (R53, R62). -/
theorem cmdData (c : Byte) {bs : List Byte} (hbs : bs ≠ []) (he : GoodEvents es) :
    GoodEvents (.cmd c :: .data bs :: es) where
  wf := List.forall_mem_cons.2 ⟨rfl, List.forall_mem_cons.2 ⟨by simpa [Event.wf] using hbs, he.wf⟩⟩
  grouped := groupedFrom_of_false he.grouped true
  waits level ms h := he.waits level ms (by simpa using h)

end GoodEvents

/-! ### The sub-sequences of an operation -/

section

variable {d : Driver} (m : Model)

theorem goodEvents_cmdWith (c : Byte) (args : List Byte) : GoodEvents (cmdWith c args) := by
  unfold cmdWith
  split
  next => exact .cmd c .nil
  next hargs => exact .cmdData c hargs .nil

theorem goodEvents_optionalWrite (o : Option (Byte × Byte)) : GoodEvents (optionalWrite o) := by
  cases o with
  | none => exact .nil
  | some p => exact .cmdData p.1 (List.cons_ne_nil _ _) .nil

theorem goodEvents_initEvents (d : Driver) (writes : List InitWrite) : GoodEvents (initEvents d writes) := by
  refine .reset _ _ ?_
  induction writes with
  | nil => exact .nil
  | cons w ws ih => exact (goodEvents_cmdWith w.cmd w.args).append ih

theorem goodEvents_forceEvents (d : Driver) (v : Byte) : GoodEvents (forceEvents d v) :=
  (goodEvents_optionalWrite _).append (.cmdData _ (List.cons_ne_nil _ _) .nil)

theorem goodEvents_clearEvents (d : Driver) (m : Model) : GoodEvents (clearEvents d m) := by
  unfold clearEvents
  split
  · exact .fill _ _ _ .nil
  · exact .fill _ _ _ (.fill _ _ _ .nil)
  · exact .fill _ _ _ .nil

theorem goodEvents_setWindow (d : Driver) (x y w h : Nat) : GoodEvents (setWindow d x y w h) := by
  unfold setWindow
  split
  · exact .cmdData _ (List.cons_ne_nil _ _) .nil
  · exact .cmdData _ (List.cons_ne_nil _ _) (.cmdData _ (List.cons_ne_nil _ _)
      (.cmdData _ (List.cons_ne_nil _ _) (.cmdData _ (List.cons_ne_nil _ _) .nil)))

/-! The sequences that wait: their driver meets R9. -/

variable (hd : driverOk d = true)
include hd

theorem goodEvents_ponEvents : GoodEvents (ponEvents d) := by
  obtain ⟨hpon, _⟩ := driverOk_timeouts hd
  exact .cmd _ (.wait _ hpon .nil)

theorem goodEvents_pofEvents : GoodEvents (pofEvents d) := by
  obtain ⟨_, hpoff, _⟩ := driverOk_timeouts hd
  exact .cmd _ (.wait _ hpoff .nil)

theorem goodEvents_tempReadEvents (b : Byte) : GoodEvents (tempReadEvents d b) := by
  obtain ⟨_, _, _, htemp⟩ := driverOk_timeouts hd
  exact ((goodEvents_optionalWrite _).append (.cmd _ (.wait _ htemp .nil))).append (.read b .nil)

theorem goodEvents_refreshEvents (b : Byte) : GoodEvents (refreshEvents d m b) := by
  obtain ⟨_, _, hrefresh, _⟩ := driverOk_timeouts hd
  have hread : GoodEvents (refreshReadEvents d b) := .ite (goodEvents_tempReadEvents hd b) .nil
  have hwindow : GoodEvents (refreshWindowEvents d m) := .ite (goodEvents_setWindow d _ _ _ _) .nil
  exact ((((goodEvents_ponEvents hd).append hread).append (.cmd _ (.wait _ hrefresh .nil))).append hwindow).append
    (goodEvents_pofEvents hd)

theorem goodEvents_clearAllEvents (rf : Bool) (b : Byte) : GoodEvents (clearAllEvents d m rf b) :=
  (goodEvents_clearEvents d m).append (.ite (goodEvents_refreshEvents m hd b) .nil)

theorem goodEvents_sleepEvents (l : Lifecycle) : GoodEvents (sleepEvents d l) :=
  .append (.ite (goodEvents_pofEvents hd) .nil) (goodEvents_cmdWith _ _)

end

/-! ### The pixel stream -/

section

variable {d : Driver} {m : Model} {blk col : Memory} {bp cp : Bool} {stride h : Nat}

/-- A run over at least one index is at least one byte. -/
theorem planeRun_ne_nil {buf : Memory} {present : Bool} {filler : Byte} {is : List Nat} {bs : List Byte}
    (his : is ≠ []) (hrun : planeRun buf present filler is = some bs) : bs ≠ [] := by
  have hlen := planeRun_length buf present filler is bs hrun
  exact List.length_pos_iff.1 (hlen ▸ List.length_pos_iff.2 his)

theorem planeIndices_ne_nil (hs : 0 < stride) (hh : 0 < h) : planeIndices stride h ≠ [] := by
  rw [planeIndices_eq_range]
  exact List.range_eq_nil.not.2 (Nat.mul_pos hs hh).ne'

theorem doubleIndices_ne_nil (hs : 0 < stride) (hh : 0 < h) : doubleIndices stride h ≠ [] := by
  rw [doubleIndices_eq]
  exact List.append_ne_nil_of_left_ne_nil (planeIndices_ne_nil hs hh) _

theorem planeBytes_ne_nil {buf : Memory} {present : Bool} {filler : Byte} {bs : List Byte} (hs : 0 < stride)
    (hh : 0 < h) (hb : planeBytes buf present filler stride h = some bs) : bs ≠ [] :=
  planeRun_ne_nil (planeIndices_ne_nil hs hh) hb

theorem secondPlane_ne_nil {bs : List Byte} (hs : 0 < stride) (hh : 0 < h)
    (hb : secondPlane d m blk col bp cp stride h = some bs) : bs ≠ [] := by
  unfold secondPlane at hb
  split at hb
  · exact planeBytes_ne_nil hs hh hb
  · exact planeBytes_ne_nil hs hh hb

/-- Of a window of at least one byte, no `DATA` of the stream is empty. -/
theorem goodEvents_stream {es : List Event} (hs : 0 < stride) (hh : 0 < h)
    (hes : stream d m blk col bp cp stride h = some es) : GoodEvents es := by
  unfold stream at hes
  split at hes
  next =>
    obtain ⟨b, hb, rfl⟩ := Option.map_eq_some_iff.1 hes
    exact .cmdData _ (planeBytes_ne_nil hs hh hb) .nil
  next =>
    unfold streamSequential at hes
    split at hes
    next b c hb hc =>
      cases hes
      exact .cmdData _ (planeBytes_ne_nil hs hh hb) (.cmdData _ (secondPlane_ne_nil hs hh hc) .nil)
    next => cases hes
  next =>
    obtain ⟨b, hb, rfl⟩ := Option.map_eq_some_iff.1 hes
    exact .cmdData _ (planeRun_ne_nil (doubleIndices_ne_nil hs hh) hb) .nil

end

end Sys2Proof.Machine
end

section
/-! The invariant (R24 to R26, R28, R53, R62, R9): what holds while an operation runs, and that its end restores the rest. -/

namespace Sys2Proof.Machine

variable {s t : State} {m : Model} {d : Driver} {es : List Event} {l : Lifecycle} {k : Nat} {r : Response}

/-- The invariant without the two parts that the end of an operation sets: idleness and the response. It holds from the
acceptance of a request on. -/
structure State.Settled (s : State) : Prop where
  bound    : s.BoundMatchesLifecycle
  notOn    : s.NotPoweredOn
  active   : s.ActiveKnown
  memories : s.MemoriesCanonical
  log      : GoodEvents s.log

theorem State.Inv.settled (h : s.Inv) : s.Settled where
  bound := h.bound
  notOn := h.notOn
  active := h.active
  memories := h.memories
  log := ⟨h.log, h.grouped, h.waits⟩

theorem State.Settled.inv (h : s.Settled) (hidle : s.Idle) (hr : s.response.wf = true) : s.Inv where
  idle := hidle
  bound := h.bound
  notOn := h.notOn
  active := h.active
  memories := h.memories
  log := h.log.wf
  grouped := h.log.grouped
  waits := h.log.waits
  response := hr

theorem State.Settled.setHost (h : s.Settled) (rest : List HostAction) : { s with host := rest }.Settled :=
  ⟨h.bound, h.notOn, h.active, h.memories, h.log⟩

theorem State.Settled.accept (h : s.Settled) (q : RequestWord) : (s.accept q).Settled :=
  ⟨h.bound, h.notOn, h.active, h.memories, h.log⟩

theorem State.Settled.setAligned (h : s.Settled) (xa wa : Nat) : (s.setAligned xa wa).Settled :=
  ⟨h.bound, h.notOn, h.active, h.memories, h.log⟩

theorem State.Settled.setStride (h : s.Settled) (n : Nat) : (s.setStride n).Settled :=
  ⟨h.bound, h.notOn, h.active, h.memories, h.log⟩

/-- The end of an operation restores the invariant. -/
theorem State.Settled.finish (h : s.Settled) (hr : r.wf = true) : (s.finish r).Inv :=
  State.Settled.inv ⟨h.bound, h.notOn, h.active, h.memories, h.log⟩ ⟨rfl, rfl⟩ hr

/-- A bound block that emits a good list and leaves `UNINIT` and `PON` aside is settled after it, whatever its lifecycle
was: `BIND` emits from `UNINIT`. -/
theorem settled_after (hb : s.bound = true) (ha : s.active.isSome = true) (hm : s.MemoriesCanonical)
    (hlog : GoodEvents s.log) (hes : GoodEvents es) (hu : l ≠ .uninit) (hp : l ≠ .pon) :
    (s.after m d es l k).Settled where
  bound := ⟨fun _ => hu, fun _ => hb⟩
  notOn := hp
  active _ := ha
  memories := by
    obtain ⟨hblk, hcol, hcram⟩ := hm
    exact ⟨hblk, hcol, Receiver.feedAll_wf d m s.receiver es hcram⟩
  log := hlog.append hes

/-- An operation of a bound block that runs keeps the invariant. -/
theorem State.Settled.inv_of_ran (h : s.Settled) (hb : s.bound = true) (ht : Ran m d es l k r s t)
    (hes : GoodEvents es) (hu : l ≠ .uninit) (hp : l ≠ .pon) (hr : r.wf = true) : t.Inv := by
  subst ht
  exact (settled_after hb (h.active hb) h.memories h.log hes hu hp).finish hr

/-- The same of an operation that leaves the lifecycle where it is. -/
theorem State.Settled.inv_of_ran_same (h : s.Settled) (hb : s.bound = true) (ht : Ran m d es s.lifecycle k r s t)
    (hes : GoodEvents es) (hr : r.wf = true) : t.Inv :=
  h.inv_of_ran hb ht hes (h.bound.1 hb) h.notOn hr

/-- An operation that ends with an error keeps the invariant. -/
theorem State.Settled.inv_of_erred (h : s.Settled) (hr : r.wf = true) (ht : Erred r s t) : t.Inv := by
  subst ht
  exact h.finish hr

/-- An operation that needs a model ends with `NOT_BOUND`, or it goes on with a driver that meets R9. -/
theorem State.Settled.inv_of_gated {P : Model → Driver → Prop} (h : s.Settled) (hcfg : cfgOk s.cfg = true)
    (hnext : (s.bound = false ∧ Erred ⟨.configurationError, false, subNotBound⟩ s t) ∨
      (s.bound = true ∧ ∃ m d, s.active = some (m, d) ∧ P m d))
    (hrun : ∀ m d, s.bound = true → driverOk d = true → P m d → t.Inv) : t.Inv := by
  rcases hnext with ⟨_, ht⟩ | ⟨hb, m, d, ha, hp⟩
  · exact h.inv_of_erred rfl ht
  · exact hrun m d hb (driverOk_of_findModelDriver hcfg ha) hp

/-! ### Each operation -/

theorem execBind_inv {id : Byte} (h : s.Settled) (e : execBind id s = .next t) : t.Inv := by
  rcases execBind_next e with ⟨_, ht⟩ | ⟨_, _, ht⟩ | ⟨_, m, d, hm, hd, ht⟩
  · exact h.inv_of_erred rfl ht
  · exact h.inv_of_erred rfl ht
  · have hactive : (s.bindTo id).active = some (m, d) := findModelDriver_eq_some.2 ⟨hm, hd⟩
    have hsettled : ((s.bindTo id).after m d (initEvents d (initTable d m)) .init 0).Settled :=
      settled_after rfl (by simp [hactive]) h.memories h.log (goodEvents_initEvents d _) nofun nofun
    subst ht
    exact hsettled.finish rfl

theorem execInitFast_inv (h : s.Settled) (hcfg : cfgOk s.cfg = true) (e : execInitFast s = .next t) : t.Inv := by
  rcases execInitFast_next e with ⟨_, ht⟩ | ⟨_, _, _, _, _, ht⟩ | ⟨hb, m, d, ha, _, _, ht⟩
  · exact h.inv_of_erred rfl ht
  · exact h.inv_of_erred rfl ht
  · have hd := driverOk_of_findModelDriver hcfg ha
    have hes := ((goodEvents_initEvents d (initFastTable d m)).append (goodEvents_ponEvents hd)).append
      (goodEvents_pofEvents hd)
    exact h.inv_of_ran hb ht hes nofun nofun rfl

theorem subBounds_wf {colOk rowOk : Bool} (hfail : ¬(colOk = true ∧ rowOk = true)) :
    Response.wf ⟨.boundsError, false, subBounds colOk rowOk⟩ = true :=
  match colOk, rowOk, hfail with
  | true, true, hfail => absurd ⟨rfl, rfl⟩ hfail
  | true, false, _ | false, true, _ | false, false, _ => rfl

/-- A rectangle of width at least 1 has at least one byte-column once aligned (R87). -/
theorem stride_pos {w : Nat} (hw : 0 < w) : 0 < ceil8 w / 8 := by
  unfold ceil8
  omega

theorem half_toNat_pos {v : Half} (hv : v ≠ 0) : 0 < v.toNat :=
  Nat.pos_of_ne_zero fun h => hv (BitVec.eq_of_toNat_eq h)

theorem writeAligned_inv {bp cp : Bool} {xa y wa n : Nat} (h : s.Settled) (hb : s.bound = true) (hwa : 0 < wa / 8)
    (hn : 0 < n) (e : writeAligned m d bp cp xa y wa n s = .next t) : t.Inv := by
  rcases writeAligned_next e with ⟨hout, ht⟩ | ⟨_, _, _, es, hes, ht⟩
  · exact h.inv_of_erred (subBounds_wf (by simpa using hout)) ht
  · have hgood := (goodEvents_setWindow d xa y wa n).append (goodEvents_stream hwa hn hes)
    exact ((h.setAligned xa wa).setStride (wa / 8)).inv_of_ran_same hb ht hgood rfl

theorem execWriteImage_inv {bp cp : Bool} {x y w n : Half} (h : s.Settled) (hcfg : cfgOk s.cfg = true)
    (e : execWriteImage bp cp x y w n s = .next t) : t.Inv := by
  refine h.inv_of_gated hcfg (execWriteImage_next e) fun m d hb _ ⟨_, hw, hn, hwrite⟩ => ?_
  exact writeAligned_inv h hb (stride_pos (half_toNat_pos hw)) (half_toNat_pos hn) hwrite

/-- Every operation that completes on a settled block leaves the invariant. -/
theorem exec_inv {i : Instr} (h : s.Settled) (hcfg : cfgOk s.cfg = true) (e : exec i s = .next t) : t.Inv := by
  cases i with
  | bind id => exact execBind_inv h e
  | init =>
    exact h.inv_of_gated hcfg (execInit_next e) fun m d hb _ ⟨_, ht⟩ =>
      h.inv_of_ran hb ht (goodEvents_initEvents d _) nofun nofun rfl
  | initFast => exact execInitFast_inv h hcfg e
  | clear rf =>
    refine h.inv_of_gated hcfg (execClear_next e) fun m d hb hd ⟨_, ht⟩ => ?_
    cases rf with
    | false => exact h.inv_of_ran_same hb ht (goodEvents_clearAllEvents m hd _ _) rfl
    | true => exact h.inv_of_ran hb ht (goodEvents_clearAllEvents m hd _ _) nofun nofun rfl
  | writeImage bp cp x y w n => exact execWriteImage_inv h hcfg e
  | refresh =>
    exact h.inv_of_gated hcfg (execRefresh_next e) fun m d hb hd ⟨_, ht⟩ =>
      h.inv_of_ran hb ht (goodEvents_refreshEvents m hd _) nofun nofun rfl
  | sleep =>
    exact h.inv_of_gated hcfg (execSleep_next e) fun m d hb hd ⟨_, ht⟩ =>
      h.inv_of_ran hb ht (goodEvents_sleepEvents hd _) nofun nofun rfl
  | readTemperature =>
    exact h.inv_of_gated hcfg (execReadTemperature_next e) fun m d hb hd ⟨_, ht⟩ =>
      h.inv_of_ran_same hb ht (goodEvents_tempReadEvents hd _) rfl
  | forceTemperature v =>
    exact h.inv_of_gated hcfg (execForceTemperature_next e) fun m d hb _ ⟨_, ht⟩ =>
      h.inv_of_ran_same hb ht (goodEvents_forceEvents d v) rfl
  | getActiveModel =>
    cases (execGetActiveModel_eq s).symm.trans e
    exact h.finish (by cases s.bound <;> rfl)
  | lutDump =>
    cases (execLutDump_eq s).symm.trans e
    exact h.finish (by cases s.bound <;> rfl)
  | ramStream =>
    cases (execRamStream_eq s).symm.trans e
    exact h.finish (by cases s.bound <;> rfl)

/-! ### Each step -/

/-- Block reset meets the invariant whenever the memories it keeps are canonical (R35, R179). -/
theorem blockReset_inv (hm : s.MemoriesCanonical) : s.blockReset.Inv :=
  State.Settled.inv ⟨by simp [State.BoundMatchesLifecycle], nofun, nofun, hm, .nil⟩ ⟨rfl, rfl⟩ rfl

theorem step_inv (h : s.Inv) (e : step s = .next t) : t.Inv := by
  rcases step_cases e with ⟨_, rfl⟩ | ⟨q, rest, i, _, hcfg, _, _, he⟩ | ⟨q, rest, op, _, _, _, _, rfl⟩ |
    ⟨bs, rest, _, _, rfl⟩ | ⟨bs, rest, _, _, rfl⟩ | ⟨rest, _, rfl⟩
  · exact h
  · exact exec_inv ((h.settled.setHost rest).accept q) hcfg he
  · exact ((h.settled.setHost rest).accept q).finish rfl
  · obtain ⟨_, hcol, hcram⟩ := h.memories
    exact { h with memories := ⟨Memory.ofBytes_wf bs, hcol, hcram⟩ }
  · obtain ⟨hblk, _, hcram⟩ := h.memories
    exact { h with memories := ⟨hblk, Memory.ofBytes_wf bs, hcram⟩ }
  · exact blockReset_inv h.memories

end Sys2Proof.Machine

namespace Sys2Proof.Proofs

/-- Settles O14: a request runs on a block where all but idleness and the response holds, and its end restores those two;
every other step touches the buffers alone or resets the block. -/
theorem stepKeepsInvariant : Obligations.StepKeepsInvariant := fun _ _ => Machine.step_inv

end Sys2Proof.Proofs
end

section
/-! What an operation that completes leaves, said once for the whole dispatch: every statement about what operations change
and keep (10_state.md) reads its cases off here. -/

namespace Sys2Proof.Machine

variable {s t : State} {i : Instr}

/-- The operations that, once past their checks, emit events and move the lifecycle, and neither bind a model, load a
working register nor return a value. -/
def OnlyEmits : Instr → Prop
  | .init | .initFast | .clear _ | .refresh | .sleep | .forceTemperature _ => True
  | .bind _ | .writeImage .. | .readTemperature | .getActiveModel | .lutDump | .ramStream => False

/-- The states an operation can complete in. `GET_ACTIVE_MODEL` stands apart: it has no error and no event (R150). -/
inductive Completes (s : State) : Instr → State → Prop
  /-- An error (R164): the response says which, and nothing else happens. -/
  | error {i : Instr} {r : Response} (hi : i ≠ .getActiveModel) (hr : r.result ≠ .ok) (hwf : r.wf = true) :
      Completes s i (s.finish r)
  /-- `BIND` of a catalog model on an unbound block (R147). -/
  | binds {id : Byte} {m : Model} {d : Driver} {es : List Event} (hb : s.bound = false) :
      Completes s (.bind id) (((s.bindTo id).after m d es .init 0).finish ⟨.ok, false, 0⟩)
  /-- Events and a lifecycle state, and no value. -/
  | emits {i : Instr} {m : Model} {d : Driver} {es : List Event} {l : Lifecycle} {k : Nat} (hi : OnlyEmits i) :
      Completes s i ((s.after m d es l k).finish ⟨.ok, false, 0⟩)
  /-- `WRITE_IMAGE` of a rectangle inside the panel (R133). -/
  | writesImage {bp cp : Bool} {x y w h : Half} {m : Model} {d : Driver} {es : List Event}
      (ha : s.active = some (m, d)) (hcols : (align x.toNat w.toNat).1 + (align x.toNat w.toNat).2 ≤ m.width)
      (hrows : y.toNat + h.toNat ≤ m.height) :
      Completes s (.writeImage bp cp x y w h)
        ((((s.setAligned (align x.toNat w.toNat).1 (align x.toNat w.toNat).2).setStride
          ((align x.toNat w.toNat).2 / 8)).after m d es s.lifecycle 0).finish ⟨.ok, false, 0⟩)
  /-- `READ_TEMPERATURE` returns the byte read (R140). -/
  | readsTemperature {m : Model} {d : Driver} {es : List Event} :
      Completes s .readTemperature ((s.after m d es s.lifecycle 1).finish ⟨.ok, true, s.nextAnswer⟩)
  /-- `GET_ACTIVE_MODEL`, with and without a model bound (R150). -/
  | answersModel :
      Completes s .getActiveModel (s.finish ⟨.ok, s.bound, if s.bound then s.activeId else 0⟩)

/-! ### Every meaning completes so -/

/-- An operation that needs a model ends with `NOT_BOUND`, or it goes on. -/
theorem completes_of_gated {P : Model → Driver → Prop} (hi : i ≠ .getActiveModel)
    (hnext : (s.bound = false ∧ Erred ⟨.configurationError, false, subNotBound⟩ s t) ∨
      (s.bound = true ∧ ∃ m d, s.active = some (m, d) ∧ P m d))
    (hrun : ∀ m d, s.active = some (m, d) → P m d → Completes s i t) : Completes s i t := by
  rcases hnext with ⟨_, rfl⟩ | ⟨_, m, d, ha, hp⟩
  · exact .error hi nofun rfl
  · exact hrun m d ha hp

theorem execBind_completes {id : Byte} (e : execBind id s = .next t) : Completes s (.bind id) t := by
  rcases execBind_next e with ⟨_, rfl⟩ | ⟨_, _, rfl⟩ | ⟨hb, m, d, _, _, rfl⟩
  · exact .error nofun nofun rfl
  · exact .error nofun nofun rfl
  · exact .binds hb

theorem execInitFast_completes (e : execInitFast s = .next t) : Completes s .initFast t := by
  rcases execInitFast_next e with ⟨_, rfl⟩ | ⟨_, _, _, _, _, rfl⟩ | ⟨_, m, d, _, _, _, rfl⟩
  · exact .error nofun nofun rfl
  · exact .error nofun nofun rfl
  · exact .emits trivial

theorem execWriteImage_completes {bp cp : Bool} {x y w h : Half} (e : execWriteImage bp cp x y w h s = .next t) :
    Completes s (.writeImage bp cp x y w h) t := by
  refine completes_of_gated nofun (execWriteImage_next e) fun m d ha ⟨_, _, _, hwrite⟩ => ?_
  rcases writeAligned_next hwrite with ⟨hout, rfl⟩ | ⟨hcols, hrows, _, es, _, rfl⟩
  · exact .error nofun nofun (subBounds_wf (by simpa using hout))
  · exact .writesImage ha hcols hrows

/-- `LUT_DUMP` and `RAM_STREAM`: an error, whether a model is bound or not (R152, R153). -/
theorem completes_capabilityAbsent (hi : i ≠ .getActiveModel) :
    Completes s i (s.finish (if s.bound then ⟨.unsupportedOperation, false, subCapabilityAbsent⟩
      else ⟨.configurationError, false, subNotBound⟩)) := by
  split
  · exact .error hi nofun rfl
  · exact .error hi nofun rfl

/-- Whatever an operation answers, it is one of these completions. -/
theorem exec_completes (e : exec i s = .next t) : Completes s i t := by
  cases i with
  | bind id => exact execBind_completes e
  | init => exact completes_of_gated nofun (execInit_next e) fun _ _ _ ⟨_, ht⟩ => ht ▸ .emits trivial
  | initFast => exact execInitFast_completes e
  | clear rf => exact completes_of_gated nofun (execClear_next e) fun _ _ _ ⟨_, ht⟩ => ht ▸ .emits trivial
  | writeImage bp cp x y w h => exact execWriteImage_completes e
  | refresh => exact completes_of_gated nofun (execRefresh_next e) fun _ _ _ ⟨_, ht⟩ => ht ▸ .emits trivial
  | sleep => exact completes_of_gated nofun (execSleep_next e) fun _ _ _ ⟨_, ht⟩ => ht ▸ .emits trivial
  | readTemperature =>
    exact completes_of_gated nofun (execReadTemperature_next e) fun _ _ _ ⟨_, ht⟩ => ht ▸ .readsTemperature
  | forceTemperature v =>
    exact completes_of_gated nofun (execForceTemperature_next e) fun _ _ _ ⟨_, ht⟩ => ht ▸ .emits trivial
  | getActiveModel =>
    cases (execGetActiveModel_eq s).symm.trans e
    exact .answersModel
  | lutDump =>
    cases (execLutDump_eq s).symm.trans e
    exact completes_capabilityAbsent nofun
  | ramStream =>
    cases (execRamStream_eq s).symm.trans e
    exact completes_capabilityAbsent nofun

/-! ### What a completion says -/

/-- An operation adds its events to LOG and removes none (R30). -/
theorem Completes.log (h : Completes s i t) : ∃ es, t.log = s.log ++ es := by
  cases h with
  | error | answersModel => exact ⟨[], (List.append_nil _).symm⟩
  | binds | emits | writesImage | readsTemperature => exact ⟨_, rfl⟩

/-- The spaces and the registers that no operation writes (R45, R19), and the two that its end sets (R199). -/
theorem Completes.frame (h : Completes s i t) :
    t.blk = s.blk ∧ t.col = s.col ∧ t.cfg = s.cfg ∧ t.latches = s.latches ∧ t.host = s.host ∧ t.busy = false ∧
      t.seqPc = 0 := by
  cases h with
  | error | binds | emits | writesImage | readsTemperature | answersModel => exact ⟨rfl, rfl, rfl, rfl, rfl, rfl, rfl⟩

/-- Only `WRITE_IMAGE` loads the working registers (R36). -/
theorem Completes.working (h : Completes s i t) (hi : ∀ bp cp x y w h, i ≠ .writeImage bp cp x y w h) :
    t.working = s.working := by
  cases h with
  | writesImage => exact absurd rfl (hi _ _ _ _ _ _)
  | error | binds | emits | readsTemperature | answersModel => rfl

/-- Only a successful `BIND` writes BOUND and ACTIVE_ID (R25). -/
theorem Completes.bound (h : Completes s i t) :
    (t.bound = s.bound ∧ t.activeId = s.activeId) ∨
      ∃ id, i = .bind id ∧ s.bound = false ∧ t.bound = true ∧ t.activeId = id ∧ t.response.result = .ok := by
  cases h with
  | binds hb => exact .inr ⟨_, rfl, hb, rfl, rfl, rfl⟩
  | error | emits | writesImage | readsTemperature | answersModel => exact .inl ⟨rfl, rfl⟩

theorem Completes.response_wf (h : Completes s i t) : t.response.wf = true := by
  cases h with
  | error hi hr hwf => exact hwf
  | binds | emits | writesImage | readsTemperature => rfl
  | answersModel =>
    rw [State.finish_response]
    cases s.bound <;> rfl

/-- A well-formed error holds no value (R28). -/
theorem Response.rvalid_of_error {r : Response} (hwf : r.wf = true) (hr : r.result ≠ .ok) : r.rvalid = false := by
  obtain ⟨result, rvalid, rval⟩ := r
  cases result with
  | ok => exact absurd rfl hr
  | configurationError | boundsError | unsupportedOperation =>
    simp only [Response.wf, Bool.and_eq_true, Bool.not_eq_true'] at hwf
    exact hwf.1

/-- A value is given by a successful `READ_TEMPERATURE` and by `GET_ACTIVE_MODEL` with a model bound, and nowhere else
(R28). -/
theorem Completes.rvalid_iff (h : Completes s i t) :
    t.response.rvalid = true ↔
      (i = .readTemperature ∧ t.response.result = .ok) ∨ (i = .getActiveModel ∧ s.bound = true) := by
  cases h with
  | error hi hr hwf => simp [hi, hr, Response.rvalid_of_error hwf hr]
  | emits hi =>
    have hread : i ≠ .readTemperature := by rintro rfl; exact hi
    have hmodel : i ≠ .getActiveModel := by rintro rfl; exact hi
    simp [hread, hmodel]
  | binds | writesImage | readsTemperature | answersModel => simp

end Sys2Proof.Machine

namespace Sys2Proof.Proofs

open Sys2Proof.Machine

/-- Settles O39: among the completions only a `BIND` on an unbound block writes the two registers. -/
theorem boundChangesOnlyInBind : Obligations.BoundChangesOnlyInBind :=
  fun _ _ _ e => (exec_completes e).bound

/-- Settles O40: each completion's response is legal, and two of them carry a value. -/
theorem responseValueOnlyWhereGiven : Obligations.ResponseValueOnlyWhereGiven :=
  fun _ _ _ e => ⟨(exec_completes e).response_wf, (exec_completes e).rvalid_iff⟩

/-- Settles O41: no completion writes the registers and spaces of the frame, and one of them writes a working register. -/
theorem frameOfEveryOperation : Obligations.FrameOfEveryOperation := by
  intro i s t e
  have hc := exec_completes e
  obtain ⟨hblk, hcol, hcfg, hlatches, hhost, hbusy, hseqPc⟩ := hc.frame
  exact ⟨fun a => by rw [hblk], fun a => by rw [hcol], hcfg, hlatches, hhost, hc.working, hbusy, hseqPc⟩

/-- Settles O15: an operation appends its events, a block reset empties LOG, and no other step touches it. -/
theorem logIsAppendOnly : Obligations.LogIsAppendOnly := by
  intro s t e
  have hsame : ∃ es, s.log = s.log ++ es := ⟨[], (List.append_nil _).symm⟩
  rcases step_cases e with ⟨_, rfl⟩ | ⟨q, rest, i, _, _, _, _, he⟩ | ⟨q, rest, op, _, _, _, _, rfl⟩ |
    ⟨bs, rest, _, _, rfl⟩ | ⟨bs, rest, _, _, rfl⟩ | ⟨rest, hhost, rfl⟩
  · exact .inl hsame
  · exact .inl (exec_completes he).log
  · exact .inl hsame
  · exact .inl hsame
  · exact .inl hsame
  · exact .inr ⟨rest, hhost, rfl⟩

end Sys2Proof.Proofs
end

section
/-! The geometry of an accepted `WRITE_IMAGE` (R87, R88, R137) and the widths of the working registers (R18). -/

namespace Sys2Proof.Machine

open Sys2Proof.Spec

/-- The column `WRITE_IMAGE` starts at fits `XA` (R18). -/
theorem toNat_ofNat_alignedX (x : Half) : (BitVec.ofNat 16 (alignedX x)).toNat = alignedX x := by
  have hlt : alignedX x < 2 ^ 16 := (Nat.sub_le _ _).trans_lt x.isLt
  rw [BitVec.toNat_ofNat, Nat.mod_eq_of_lt hlt]

/-- A width aligned up is at most 65536 (R89): `WA` needs its 17th bit for that one value. -/
theorem alignedW_le (w : Half) : alignedW w ≤ 2 ^ 16 := by
  have hw := w.isLt
  unfold alignedW
  omega

theorem toNat_ofNat_alignedW (w : Half) : (BitVec.ofNat 17 (alignedW w)).toNat = alignedW w := by
  have hlt : alignedW w < 2 ^ 17 := (alignedW_le w).trans_lt (by decide)
  rw [BitVec.toNat_ofNat, Nat.mod_eq_of_lt hlt]

/-- `STRIDE` counts the byte-columns of `WA` exactly (R18). -/
theorem toNat_ofNat_stride (w : Half) : (BitVec.ofNat 14 (alignedW w / 8)).toNat * 8 = alignedW w := by
  have hlt : alignedW w / 8 < 2 ^ 14 := (Nat.div_le_div_right (alignedW_le w)).trans_lt (by decide)
  rw [BitVec.toNat_ofNat, Nat.mod_eq_of_lt hlt]
  exact Nat.div_mul_cancel (Nat.dvd_of_mod_eq_zero (ceil8_mod w.toNat))

/-- An aligned rectangle inside the panel ends in a whole byte-column of it (R137). -/
theorem aligned_end_le {x w : Half} {width : Nat} (h : alignedX x + alignedW w ≤ width) :
    alignedX x + alignedW w ≤ width / 8 * 8 := by
  have hx : alignedX x % 8 = 0 := (align_mod x.toNat w.toNat).1
  have hw : alignedW w % 8 = 0 := ceil8_mod w.toNat
  omega

end Sys2Proof.Machine

namespace Sys2Proof.Proofs

open Sys2Proof.Machine Sys2Proof.Spec

/-- Settles O48: an accepted rectangle has passed the bounds check, and its two aligned operands are multiples of 8 that fit
the widths R18 gives the working registers. -/
theorem acceptedWriteImageGeometry : Obligations.AcceptedWriteImageGeometry := by
  rintro s t m d bp cp x y w h ⟨_, hactive⟩ e hok
  cases exec_completes e with
  | error hi hr hwf => exact absurd hok hr
  | emits hi => exact hi.elim
  | writesImage ha hcols hrows =>
    cases ha.symm.trans hactive
    exact ⟨aligned_end_le hcols, hrows, toNat_ofNat_alignedX x, toNat_ofNat_alignedW w, toNat_ofNat_stride w⟩

end Sys2Proof.Proofs
end

section
/-! The status register (R27): each field of the packed word. A field is found by dropping the fields below it. -/

namespace Sys2Proof.Machine

variable (s : State)

theorem State.status_lifecycle : s.status.extractLsb' 0 3 = s.lifecycle.code := BitVec.extractLsb'_append_eq_right

theorem State.status_bound : s.status.getLsbD 3 = s.bound := by
  rw [State.status, BitVec.getLsbD_append, BitVec.getLsbD_append]
  simp

theorem State.status_busy : s.status.getLsbD 4 = s.busy := by
  rw [State.status, BitVec.getLsbD_append, BitVec.getLsbD_append, BitVec.getLsbD_append]
  simp

theorem State.status_reserved : s.status.extractLsb' 5 3 = 0 := by
  rw [State.status, BitVec.extractLsb'_append_eq_of_le (by decide), BitVec.extractLsb'_append_eq_of_le (by decide),
    BitVec.extractLsb'_append_eq_of_le (by decide)]
  exact BitVec.extractLsb'_append_eq_right

theorem State.status_activeId : s.status.extractLsb' 8 8 = if s.bound then s.activeId else 0 := by
  rw [State.status, BitVec.extractLsb'_append_eq_of_le (by decide), BitVec.extractLsb'_append_eq_of_le (by decide),
    BitVec.extractLsb'_append_eq_of_le (by decide)]
  exact BitVec.extractLsb'_append_eq_left

/-- The model's codes are those of R22. -/
theorem code_eq_lifecycleCode (l : Lifecycle) : l.code = Spec.lifecycleCode l := by cases l <;> rfl

end Sys2Proof.Machine

namespace Sys2Proof.Proofs

open Sys2Proof.Machine

/-- Settles O6, field by field. -/
theorem statusFields : Obligations.StatusFields := fun s =>
  ⟨s.status_lifecycle.trans (code_eq_lifecycleCode _), s.status_bound, s.status_busy, s.status_reserved,
    s.status_activeId⟩

end Sys2Proof.Proofs
end

section
/-! The step on a request and on a block reset, and the reset state (R17, R29, R35, R179, R199). -/

namespace Sys2Proof.Machine

variable {s : State} {rest : List HostAction}

/-- A step serves the host's next action. -/
theorem step_eq_serve {a : HostAction} (h : s.host = a :: rest) : step s = serve a { s with host := rest } := by
  simp only [step, serveNext, h]

/-- Between operations and under a well-formed `CFG` the request port runs the decoded instruction on the accepted word. -/
theorem presentRequest_assigned {q : RequestWord} {i : Instr} (hcfg : cfgOk s.cfg = true) (hbusy : s.busy = false)
    (hq : decode q = .assigned i) : presentRequest q s = exec i (s.accept q) := by
  simp [presentRequest, hcfg, hbusy, runRequest, hq]

/-- STATUS at reset (R35): unbound, so `ACTIVE_ID`, which R35 leaves unspecified, does not show. -/
theorem resetWith_status (cfg : Cfg) : (State.resetWith cfg).status = 0 := by
  simp [State.status, State.resetWith, Lifecycle.code]

theorem resetWith_inv (cfg : Cfg) : (State.resetWith cfg).Inv :=
  blockReset_inv (s := State.resetWith cfg) ⟨.nil, .nil, .nil⟩

end Sys2Proof.Machine

namespace Sys2Proof.Proofs

open Sys2Proof.Machine

/-- Settles O8: the step serves the request, and the port accepts it. -/
theorem stepRunsDecodedRequest : Obligations.StepRunsDecodedRequest := by
  intro s q rest i hhost hcfg hbusy hq
  rw [step_eq_serve hhost]
  exact presentRequest_assigned hcfg hbusy hq

/-- Settles O12: the step serves the block reset, whose registers are those of the reset state. -/
theorem blockResetRestoresRegisters : Obligations.BlockResetRestoresRegisters := by
  intro s rest hhost
  exact ⟨_, step_eq_serve hhost, rfl, rfl, rfl, rfl, rfl, rfl, resetWith_status s.cfg, rfl, rfl, rfl, rfl, rfl, rfl⟩

/-- Settles O13: the reset state is the block reset of itself, with empty memories. -/
theorem resetMeetsInvariant : Obligations.ResetMeetsInvariant := fun cfg =>
  ⟨resetWith_inv cfg, rfl, rfl, rfl, rfl, resetWith_status cfg⟩

end Sys2Proof.Proofs
end

section
/-! The host's buffer loads (R61, R84), and the checks of the preamble that a bound block in a legal lifecycle state
passes (R111, R112). -/

namespace Sys2Proof.Machine

open Sys2Proof.Spec

variable {s t : State} {m : Model} {d : Driver}

/-- Between operations the host's load is served. -/
theorem loadBuffer_of_idle {s' : State} (hbusy : s.busy = false) : loadBuffer s s' = .next s' := by
  simp [loadBuffer, hbusy]

/-- A bound block goes on with its model and driver. -/
theorem withModel_of_bound (hb : Bound s m d) (k : Model → Driver → Outcome) : withModel s k = k m d := by
  obtain ⟨hbound, hactive⟩ := hb
  simp [withModel, ifBound, hbound, hactive]

theorem legalImage_of_imageCell (hl : ImageCell s) : legalImage s.lifecycle = true := by
  rcases hl with hl | hl <;> rw [hl] <;> rfl

/-- An operation that needs a model does not end with `NOT_BOUND` on a bound block, and the model is the bound one. -/
theorem gated_of_bound {P : Model → Driver → Prop} (hb : Bound s m d)
    (hnext : (s.bound = false ∧ Erred ⟨.configurationError, false, subNotBound⟩ s t) ∨
      (s.bound = true ∧ ∃ m d, s.active = some (m, d) ∧ P m d)) : P m d := by
  obtain ⟨hbound, hactive⟩ := hb
  rcases hnext with ⟨hunbound, _⟩ | ⟨_, m', d', ha, hp⟩
  · exact absurd (hbound.symm.trans hunbound) nofun
  · cases hactive.symm.trans ha
    exact hp

/-- `CLEAR 0` on a bound block in a legal state (R129). -/
theorem execClear_false_of_bound (hb : Bound s m d) (hl : ImageCell s) :
    execClear false s = .next ((s.after m d (clearEvents d m) s.lifecycle 0).finish ⟨.ok, false, 0⟩) := by
  rw [execClear, withModel_of_bound hb, legalImage_of_imageCell hl, State.clearBody_eq]
  simp [ifLegal, clearAllEvents]

/-- `REFRESH` on a bound block in a legal state (R120). -/
theorem execRefresh_of_bound (hb : Bound s m d) (hl : ImageCell s) :
    execRefresh s =
      .next ((s.after m d (refreshEvents d m s.nextAnswer) .poff (refreshDraws d)).finish ⟨.ok, false, 0⟩) := by
  rw [execRefresh, withModel_of_bound hb, legalImage_of_imageCell hl, State.refreshBody_eq]
  rfl

end Sys2Proof.Machine

namespace Sys2Proof.Proofs

open Sys2Proof.Machine

/-- Settles O11: the step serves the load, and a buffer filled from a list reads as the list. -/
theorem hostFillsBuffers : Obligations.HostFillsBuffers := by
  intro s bs rest hbusy
  constructor
  · intro hhost
    exact ⟨_, (step_eq_serve hhost).trans (loadBuffer_of_idle hbusy), Memory.read_ofBytes bs, rfl⟩
  · intro hhost
    exact ⟨_, (step_eq_serve hhost).trans (loadBuffer_of_idle hbusy), Memory.read_ofBytes bs, rfl⟩

end Sys2Proof.Proofs
end

section
/-! Bytes read from the transport (R58, R127): two runs that differ only in the answers take the same branches and leave
states that differ only in what was read. -/

namespace Sys2Proof.Machine

open Sys2Proof.Spec

variable {s : State} {i : Instr} {answers : List Byte} {draws : Nat} {m : Model} {d : Driver}

/-- The same state before another transport: other answers, listed and free. -/
def State.withAnswers (answers : List Byte) (draws : Nat) (s : State) : State :=
  { s with answers := answers, draws := draws }

/-- A state without what a byte read may show in: the bytes of `READ` events, the transport's position, and the value
`READ_TEMPERATURE` answers, in its latch and in the record of responses. -/
def State.hideReads (i : Instr) (s : State) : State :=
  { s with
    log := s.log.map hideRead
    response := { s.response with rval := if i = .readTemperature then 0 else s.response.rval }
    responses := []
    answers := []
    draws := 0 }

/-- Two outcomes of the operation `i` that stop for the same reason, or go on to states alike but for the bytes read. -/
inductive AlikeButReads (i : Instr) : Outcome → Outcome → Prop
  | refused (r : Refusal) : AlikeButReads i (.refused r) (.refused r)
  | next {t u : State} (h : u.hideReads i = t.hideReads i) : AlikeButReads i (.next t) (.next u)

/-- The receiver does not look at the bytes of a `READ`. -/
theorem Receiver.feedAll_map_hideRead (r : Receiver) (es : List Event) :
    r.feedAll d m (es.map hideRead) = r.feedAll d m es := by
  induction es generalizing r with
  | nil => rfl
  | cons e es ih =>
    have he : Receiver.feed d m r (hideRead e) = Receiver.feed d m r e := by cases e <;> rfl
    rw [List.map_cons, feedAll_cons, feedAll_cons, he, ih]

/-- Operations that emit the same events, read bytes aside, and end with the same response, a value read aside. -/
theorem hideReads_after {es fs : List Event} {l : Lifecycle} {k : Nat} {r r' : Response}
    (hes : fs.map hideRead = es.map hideRead) (hresult : r'.result = r.result) (hrvalid : r'.rvalid = r.rvalid)
    (hrval : i ≠ .readTemperature → r'.rval = r.rval) :
    (((s.withAnswers answers draws).after m d fs l k).finish r').hideReads i =
      ((s.after m d es l k).finish r).hideReads i := by
  have hreceiver : s.receiver.feedAll d m fs = s.receiver.feedAll d m es := by
    rw [← Receiver.feedAll_map_hideRead, hes, Receiver.feedAll_map_hideRead]
  have hvalue : (if i = .readTemperature then 0 else r'.rval) = if i = .readTemperature then 0 else r.rval := by
    split
    · rfl
    · exact hrval ‹_›
  simp only [State.hideReads, State.finish, State.after, State.withAnswers, List.map_append, hes, hreceiver, hresult,
    hrvalid, hvalue]

/-- The same where no byte read shows in the response. -/
theorem hideReads_ran {es fs : List Event} {l : Lifecycle} {k : Nat} {r : Response}
    (hes : fs.map hideRead = es.map hideRead) :
    (((s.withAnswers answers draws).after m d fs l k).finish r).hideReads i =
      ((s.after m d es l k).finish r).hideReads i :=
  hideReads_after hes rfl rfl fun _ => rfl

/-! ### The checks do not read the transport -/

theorem withModel_alike {k k' : Model → Driver → Outcome} (hk : ∀ m d, AlikeButReads i (k m d) (k' m d)) :
    AlikeButReads i (withModel s k) (withModel (s.withAnswers answers draws) k') := by
  have hactive : (s.withAnswers answers draws).active = s.active := rfl
  have hbound : (s.withAnswers answers draws).bound = s.bound := rfl
  rw [withModel, withModel, hactive, ifBound, ifBound, hbound]
  cases s.bound with
  | false => exact .next rfl
  | true =>
    cases s.active with
    | none => exact .refused _
    | some p => exact hk p.1 p.2

theorem ifLegal_alike {ok : Bool} {k k' : Outcome} (hk : AlikeButReads i k k') :
    AlikeButReads i (ifLegal ok k) (ifLegal ok k') := by
  cases ok with
  | true => exact hk
  | false => exact .refused _

theorem ifCapable_alike {able : Bool} {k k' : Outcome} (hk : AlikeButReads i k k') :
    AlikeButReads i (ifCapable able s k) (ifCapable able (s.withAnswers answers draws) k') := by
  cases able with
  | true => exact hk
  | false => exact .next rfl

/-! ### The meanings -/

theorem execBind_alike (id : Byte) :
    AlikeButReads (.bind id) (execBind id s) (execBind id (s.withAnswers answers draws)) := by
  have hbound : (s.withAnswers answers draws).bound = s.bound := rfl
  have hcfg : (s.withAnswers answers draws).cfg = s.cfg := rfl
  rw [execBind, execBind, hbound]
  cases s.bound with
  | true => exact .next rfl
  | false =>
    simp only [bindLookup, hcfg]
    cases findModel s.cfg id with
    | none => exact .next rfl
    | some m =>
      cases hd : findDriver s.cfg m.driver with
      | none => simpa [hd] using .refused _
      | some d =>
        simp only [hd, State.initBody_eq, State.finishOk_eq]
        exact .next (hideReads_ran (s := s.bindTo id) rfl)

theorem writeRect_alike {bp cp : Bool} {xa y wa h : Nat} :
    AlikeButReads i (writeRect m d bp cp xa y wa h s)
      (writeRect m d bp cp xa y wa h (s.withAnswers answers draws)) := by
  have hblk : (s.withAnswers answers draws).blk = s.blk := rfl
  have hcol : (s.withAnswers answers draws).col = s.col := rfl
  simp only [writeRect, hblk, hcol, State.emitAll_eq_after, State.finishOk_eq]
  cases buffersHold s.blk s.col bp cp (wa / 8 * h) with
  | false => exact .refused _
  | true =>
    cases stream d m s.blk s.col bp cp (wa / 8) h with
    | none => exact .refused _
    | some es => exact .next (hideReads_ran (s := s.setStride (wa / 8)) rfl)

theorem writeAligned_alike {bp cp : Bool} {xa y wa h : Nat} :
    AlikeButReads i (writeAligned m d bp cp xa y wa h s)
      (writeAligned m d bp cp xa y wa h (s.withAnswers answers draws)) := by
  unfold writeAligned
  split
  · exact writeRect_alike (s := s.setAligned xa wa)
  · exact .next rfl

theorem execWriteImage_alike (bp cp : Bool) (x y w h : Half) :
    AlikeButReads i (execWriteImage bp cp x y w h s) (execWriteImage bp cp x y w h (s.withAnswers answers draws)) := by
  refine withModel_alike fun m d => ifLegal_alike ?_
  split
  · exact .refused _
  · exact writeAligned_alike

theorem execGetActiveModel_alike :
    AlikeButReads i (execGetActiveModel s) (execGetActiveModel (s.withAnswers answers draws)) := by
  rw [execGetActiveModel_eq, execGetActiveModel_eq]
  exact .next rfl

theorem execLutDump_alike : AlikeButReads i (execLutDump s) (execLutDump (s.withAnswers answers draws)) := by
  rw [execLutDump_eq, execLutDump_eq]
  exact .next rfl

/-! The sequences with a `READ`: the same events, its byte aside. -/

theorem map_hideRead_tempReadEvents (b b' : Byte) :
    (tempReadEvents d b').map hideRead = (tempReadEvents d b).map hideRead := by
  simp [tempReadEvents, hideRead]

theorem map_hideRead_refreshEvents (b b' : Byte) :
    (refreshEvents d m b').map hideRead = (refreshEvents d m b).map hideRead := by
  have hread : (refreshReadEvents d b').map hideRead = (refreshReadEvents d b).map hideRead := by
    unfold refreshReadEvents
    split
    · exact map_hideRead_tempReadEvents b b'
    · rfl
  simp [refreshEvents, hread]

theorem map_hideRead_clearAllEvents (rf : Bool) (b b' : Byte) :
    (clearAllEvents d m rf b').map hideRead = (clearAllEvents d m rf b).map hideRead := by
  cases rf with
  | false => rfl
  | true => simp [clearAllEvents, map_hideRead_refreshEvents b b']

/-- Whatever the transport answers, an operation stops alike or goes on alike. -/
theorem exec_alike (i : Instr) (s : State) (answers : List Byte) (draws : Nat) :
    AlikeButReads i (exec i s) (exec i (s.withAnswers answers draws)) := by
  cases i with
  | bind id => exact execBind_alike id
  | init =>
    refine withModel_alike fun m d => ifLegal_alike ?_
    rw [State.initBody_eq, State.initBody_eq]
    exact .next (hideReads_ran rfl)
  | initFast =>
    refine withModel_alike fun m d => ifCapable_alike (ifLegal_alike ?_)
    rw [State.initFastBody_eq, State.initFastBody_eq]
    exact .next (hideReads_ran rfl)
  | clear rf =>
    refine withModel_alike fun m d => ifLegal_alike ?_
    rw [State.clearBody_eq, State.clearBody_eq]
    exact .next (hideReads_ran (map_hideRead_clearAllEvents rf _ _))
  | writeImage bp cp x y w h => exact execWriteImage_alike bp cp x y w h
  | refresh =>
    refine withModel_alike fun m d => ifLegal_alike ?_
    rw [State.refreshBody_eq, State.refreshBody_eq]
    exact .next (hideReads_ran (map_hideRead_refreshEvents _ _))
  | sleep =>
    refine withModel_alike fun m d => ifLegal_alike ?_
    rw [State.sleepBody_eq, State.sleepBody_eq]
    exact .next (hideReads_ran rfl)
  | readTemperature =>
    refine withModel_alike fun m d => ifLegal_alike ?_
    rw [State.tempReadSeq_eq, State.tempReadSeq_eq]
    exact .next (hideReads_after (map_hideRead_tempReadEvents _ _) rfl rfl fun h => absurd rfl h)
  | forceTemperature v =>
    refine withModel_alike fun m d => ifLegal_alike ?_
    rw [State.emitAll_eq_after, State.emitAll_eq_after]
    exact .next (hideReads_ran rfl)
  | getActiveModel => exact execGetActiveModel_alike
  | lutDump => exact execLutDump_alike
  | ramStream => exact execLutDump_alike

/-- What two states alike but for the bytes read agree on. -/
theorem agree_of_hideReads_eq {t u : State} (h : u.hideReads i = t.hideReads i) :
    u.log.map hideRead = t.log.map hideRead ∧ u.lifecycle = t.lifecycle ∧ u.bound = t.bound ∧
      u.activeId = t.activeId ∧ u.working = t.working ∧ u.response.result = t.response.result ∧
      u.response.rvalid = t.response.rvalid ∧ (i ≠ .readTemperature → u.response.rval = t.response.rval) ∧
      u.receiver = t.receiver ∧ u.latches = t.latches ∧ u.busy = t.busy ∧ u.seqPc = t.seqPc := by
  simp only [State.hideReads, State.mk.injEq, Response.mk.injEq] at h
  obtain ⟨hlifecycle, hbound, hactiveId, hlatches, hworking, ⟨hresult, hrvalid, hrval⟩, hbusy, hseqPc, hlog, _, _, _, _,
    _, _, _, hreceiver⟩ := h
  refine ⟨hlog, hlifecycle, hbound, hactiveId, hworking, hresult, hrvalid, fun hi => ?_, hreceiver, hlatches, hbusy,
    hseqPc⟩
  rwa [if_neg hi, if_neg hi] at hrval

end Sys2Proof.Machine

namespace Sys2Proof.Proofs

open Sys2Proof.Machine

/-- Settles O42: the two outcomes are alike, operation by operation, since no check and no event list but the bytes of a
`READ` looks at the transport. -/
theorem readBytesDoNotSteer : Obligations.ReadBytesDoNotSteer := by
  intro i s answers draws
  have halike : AlikeButReads i (exec i s) (exec i { s with answers := answers, draws := draws }) :=
    exec_alike i s answers draws
  revert halike
  generalize exec i s = o
  generalize exec i { s with answers := answers, draws := draws } = o'
  intro halike
  cases halike with
  | refused r => rfl
  | next h => exact agree_of_hideReads_eq h

end Sys2Proof.Proofs
end

section
/-! Runs of events that act alike on the receiver (R56, R62). -/

namespace Sys2Proof.Machine

open Sys2Proof.Spec

variable (d : Driver) (m : Model) (r : Receiver)

/-! ### Data bytes into an open RAM write -/

theorem inPlane_iff_insidePlane (cols rows : Span) : inPlane d m cols rows = true ↔ InsidePlane d m cols rows := by
  rw [inPlane_iff, InsidePlane, planeRows, planeCols]
  cases d.planeStrategy <;> rfl

/-- In a known window inside the plane, the bytes go to the window's cells. -/
theorem Receiver.storeRam_of_inside {cols rows : Span} (hw : r.window d = some (cols, rows))
    (hin : InsidePlane d m cols rows) (p : Byte) (bs : List Byte) :
    r.storeRam d m p bs =
      { r with
        cram := Memory.writeAll (windowCells cols rows p r.cursor bs) r.cram
        cursor := r.cursor + bs.length } := by
  simp [storeRam, hw, (inPlane_iff_insidePlane d m cols rows).2 hin]

/-- In no known window inside the plane, the plane's cells are forgotten. -/
theorem Receiver.storeRam_of_not_inside
    (hout : ∀ cols rows, r.window d = some (cols, rows) → ¬InsidePlane d m cols rows) (p : Byte) (bs : List Byte) :
    r.storeRam d m p bs = { r with cram := forgetPlane r.cram p, cursor := r.cursor + bs.length } := by
  rcases r.storeRam_cases d m p bs with ⟨cols, rows, hw, hin, _⟩ | ⟨_, h⟩
  · exact absurd ((inPlane_iff_insidePlane d m cols rows).1 hin) (hout cols rows hw)
  · exact h

theorem forgetPlane_forgetPlane (mem : Memory) (p : Byte) : forgetPlane (forgetPlane mem p) p = forgetPlane mem p := by
  simp [forgetPlane, List.filter_filter]

theorem Memory.writeAll_append (cells cells' : List Host.Cell) (mem : Memory) :
    Memory.writeAll (cells ++ cells') mem = Memory.writeAll cells' (Memory.writeAll cells mem) := List.foldl_append

/-- Bytes that come later go on where the bytes before left off. -/
theorem Receiver.storeRam_storeRam (p : Byte) (bs cs : List Byte) :
    (r.storeRam d m p bs).storeRam d m p cs = r.storeRam d m p (bs ++ cs) := by
  by_cases h : ∃ cols rows, r.window d = some (cols, rows) ∧ InsidePlane d m cols rows
  · obtain ⟨cols, rows, hw, hin⟩ := h
    rw [storeRam_of_inside d m (r.storeRam d m p bs) ((r.storeRam_window d m p bs).trans hw) hin,
      r.storeRam_of_inside d m hw hin, r.storeRam_of_inside d m hw hin, windowCells_append, Memory.writeAll_append,
      List.length_append, Nat.add_assoc]
  · have hout : ∀ cols rows, r.window d = some (cols, rows) → ¬InsidePlane d m cols rows :=
      fun cols rows hw hin => h ⟨cols, rows, hw, hin⟩
    have hout' : ∀ cols rows, (r.storeRam d m p bs).window d = some (cols, rows) → ¬InsidePlane d m cols rows := by
      rwa [r.storeRam_window d m p bs]
    rw [storeRam_of_not_inside d m _ hout', r.storeRam_of_not_inside d m hout, r.storeRam_of_not_inside d m hout,
      forgetPlane_forgetPlane, List.length_append, Nat.add_assoc]

/-! ### Argument bytes: each command writes its own fields, from its arguments alone -/

theorem Receiver.takeWindow_eq (a : List Byte) :
    r.takeWindow a =
      { r with cols := (Receiver.unknown.takeWindow a).cols, rows := (Receiver.unknown.takeWindow a).rows } := by
  unfold takeWindow
  split <;> rfl

theorem Receiver.takeXrange_eq (a : List Byte) :
    r.takeXrange d a = { r with cols := (Receiver.unknown.takeXrange d a).cols } := by
  unfold takeXrange
  split <;> rfl

theorem Receiver.takeYrange_eq (a : List Byte) :
    r.takeYrange d a = { r with rows := (Receiver.unknown.takeYrange d a).rows } := by
  unfold takeYrange
  split <;> rfl

theorem Receiver.takeXcount_eq (a : List Byte) :
    r.takeXcount a = { r with xCount := (Receiver.unknown.takeXcount a).xCount } := by
  unfold takeXcount
  split <;> rfl

theorem Receiver.takeYcount_eq (a : List Byte) :
    r.takeYcount a = { r with yCount := (Receiver.unknown.takeYcount a).yCount } := by
  unfold takeYcount
  split <;> rfl

/-- A command that addresses nothing is the force command or opaque. -/
theorem Receiver.takeArgs_of_not_addressing {c : Byte} (hc : isAddressing d c = false) (a : List Byte) :
    r.takeArgs d c a = if c = d.cTforce then r.takeForced a else r := by
  unfold isAddressing at hc
  unfold takeArgs
  cases hs : d.addrStyle with
  | window =>
    simp only [hs, beq_eq_false_iff_ne] at hc
    exact if_neg hc
  | counter =>
    simp only [hs, Bool.or_eq_false_iff, beq_eq_false_iff_ne] at hc
    obtain ⟨⟨⟨hx, hy⟩, hxc⟩, hyc⟩ := hc
    simp only [hx, hy, hxc, hyc, if_false]

/-- What an addressing command's argument bytes do (R74, R75): one of the five forms. -/
theorem takeArgs_of_addressing {c : Byte} (hc : isAddressing d c = true) :
    (∀ r a, Receiver.takeArgs d r c a = r.takeWindow a) ∨ (∀ r a, Receiver.takeArgs d r c a = r.takeXrange d a) ∨
    (∀ r a, Receiver.takeArgs d r c a = r.takeYrange d a) ∨ (∀ r a, Receiver.takeArgs d r c a = r.takeXcount a) ∨
    (∀ r a, Receiver.takeArgs d r c a = r.takeYcount a) := by
  unfold isAddressing at hc
  unfold Receiver.takeArgs
  cases hs : d.addrStyle with
  | window =>
    simp only [hs, beq_iff_eq] at hc
    exact .inl fun r a => if_pos hc
  | counter =>
    simp only [hs, Bool.or_eq_true, beq_iff_eq] at hc
    by_cases hx : c = d.cXrange
    · exact .inr (.inl fun r a => if_pos hx)
    by_cases hy : c = d.cYrange
    · exact .inr (.inr (.inl fun r a => by simp only [hx, if_false, if_pos hy]))
    by_cases hxc : c = d.cXcount
    · exact .inr (.inr (.inr (.inl fun r a => by simp only [hx, hy, if_false, if_pos hxc])))
    · have hyc : c = d.cYcount := by tauto
      exact .inr (.inr (.inr (.inr fun r a => by simp only [hx, hy, hxc, if_false, if_pos hyc])))

/-- Argument bytes end no group. -/
theorem Receiver.takeArgs_keeps_group (c : Byte) (a : List Byte) :
    (r.takeArgs d c a).opened = r.opened ∧ (r.takeArgs d c a).args = r.args := by
  cases hc : isAddressing d c with
  | false =>
    rw [r.takeArgs_of_not_addressing d hc]
    split <;> exact ⟨rfl, rfl⟩
  | true =>
    rcases takeArgs_of_addressing d hc with h | h | h | h | h <;> rw [h]
    · rw [takeWindow_eq]; exact ⟨rfl, rfl⟩
    · rw [takeXrange_eq]; exact ⟨rfl, rfl⟩
    · rw [takeYrange_eq]; exact ⟨rfl, rfl⟩
    · rw [takeXcount_eq]; exact ⟨rfl, rfl⟩
    · rw [takeYcount_eq]; exact ⟨rfl, rfl⟩

/-- What a command makes of its arguments replaces what it made of the ones before. -/
theorem Receiver.takeArgs_takeArgs (c : Byte) (a b x : List Byte) :
    Receiver.takeArgs d { r.takeArgs d c a with args := x } c b = Receiver.takeArgs d { r with args := x } c b := by
  cases hc : isAddressing d c with
  | false =>
    rw [takeArgs_of_not_addressing d _ hc, takeArgs_of_not_addressing d _ hc, takeArgs_of_not_addressing d _ hc]
    split <;> rfl
  | true =>
    rcases takeArgs_of_addressing d hc with h | h | h | h | h <;> rw [h, h, h]
    · rw [takeWindow_eq r a]
      exact (takeWindow_eq _ b).trans (takeWindow_eq _ b).symm
    · rw [takeXrange_eq d r a]
      exact (takeXrange_eq d _ b).trans (takeXrange_eq d _ b).symm
    · rw [takeYrange_eq d r a]
      exact (takeYrange_eq d _ b).trans (takeYrange_eq d _ b).symm
    · rw [takeXcount_eq r a]
      exact (takeXcount_eq _ b).trans (takeXcount_eq _ b).symm
    · rw [takeYcount_eq r a]
      exact (takeYcount_eq _ b).trans (takeYcount_eq _ b).symm

/-- Data bytes for a command that opens no plane are arguments after the ones received. -/
theorem Receiver.takeData_args {c : Byte} (ho : r.opened = some c) (hc : isRamCmd d m c = false) (bs : List Byte) :
    r.takeData d m bs = Receiver.takeArgs d { r with args := r.args ++ bs } c (r.args ++ bs) := by
  simp [takeData, ho, hc]

/-- Data bytes for a command that opens a plane are stored. -/
theorem Receiver.takeData_ram {c : Byte} (ho : r.opened = some c) (hc : isRamCmd d m c = true) (bs : List Byte) :
    r.takeData d m bs = r.storeRam d m c bs := by
  simp [takeData, ho, hc]

/-- Data bytes with no command open are lost. -/
theorem Receiver.takeData_closed (ho : r.opened = none) (bs : List Byte) : r.takeData d m bs = r := by
  simp [takeData, ho]

/-- A run of data bytes may come in two `DATA`s (R62). -/
theorem Receiver.takeData_takeData (bs cs : List Byte) :
    (r.takeData d m bs).takeData d m cs = r.takeData d m (bs ++ cs) := by
  cases ho : r.opened with
  | none => rw [r.takeData_closed d m ho, r.takeData_closed d m ho, r.takeData_closed d m ho]
  | some c =>
    cases hc : isRamCmd d m c with
    | true =>
      have ho' : (r.storeRam d m c bs).opened = some c := by
        rcases r.storeRam_cases d m c bs with ⟨_, _, _, _, e⟩ | ⟨_, e⟩ <;> rw [e] <;> exact ho
      rw [r.takeData_ram d m ho hc, r.takeData_ram d m ho hc, takeData_ram d m _ ho' hc, storeRam_storeRam]
    | false =>
      obtain ⟨hopened, hargs⟩ := takeArgs_keeps_group d { r with args := r.args ++ bs } c (r.args ++ bs)
      rw [r.takeData_args d m ho hc, r.takeData_args d m ho hc, takeData_args d m _ (hopened.trans ho) hc,
        takeArgs_takeArgs, hargs, List.append_assoc]

end Sys2Proof.Machine

namespace Sys2Proof.Proofs

/-- Settles O54: a split run by `takeData_takeData`; a `FILL` is a command, its bytes and the end of the group, which
touches neither a cell nor the window. -/
theorem equivalentRunsOnTheReceiver : Obligations.EquivalentRunsOnTheReceiver := by
  intro d m r
  exact ⟨r.takeData_takeData d m, fun c b n => ⟨fun p col row => rfl, rfl, by simp⟩⟩

end Sys2Proof.Proofs
end

section
/-! Lists of events that leave a part of the receiver alone: its RAM, or its window (R45, R53, R57). -/

namespace Sys2Proof.Machine

open Sys2Proof.Spec

variable {α : Type} {d : Driver} {m : Model} {f : Receiver → α} {es fs : List Event}

/-- The events leave the part `f` of every receiver as it is. -/
def Keeps (d : Driver) (m : Model) (f : Receiver → α) (es : List Event) : Prop :=
  ∀ r : Receiver, f (r.feedAll d m es) = f r

/-- The part `f` of a receiver is none of what the beginning and the end of an atomic group set. -/
structure OutsideGroups (f : Receiver → α) : Prop where
  openCmd : ∀ r c, f (Receiver.openCmd r c) = f r
  close   : ∀ r, f (Receiver.close r) = f r

theorem outsideGroups_cram : OutsideGroups Receiver.cram := ⟨fun _ _ => rfl, fun _ => rfl⟩

theorem outsideGroups_window (d : Driver) : OutsideGroups (Receiver.window d) := ⟨fun _ _ => rfl, fun _ => rfl⟩

namespace Keeps

theorem nil : Keeps d m f [] := fun _ => rfl

theorem append (he : Keeps d m f es) (hf : Keeps d m f fs) : Keeps d m f (es ++ fs) := fun r => by
  rw [Receiver.feedAll_append, hf, he]

theorem ite {p : Prop} [Decidable p] (he : p → Keeps d m f es) (hf : ¬p → Keeps d m f fs) :
    Keeps d m f (if p then es else fs) := by
  split
  next hp => exact he hp
  next hp => exact hf hp

theorem cmd (hg : OutsideGroups f) (c : Byte) : Keeps d m f [.cmd c] := fun r => hg.openCmd r c

theorem read (n : Nat) (got : List Byte) : Keeps d m f [.read n got] := fun _ => rfl

/-- A command without data, and the wait for it. -/
theorem cmdWait (hg : OutsideGroups f) (c : Byte) (level : Bool) (ms : Nat) :
    Keeps d m f [.cmd c, .wait level ms] :=
  fun r => (hg.close _).trans (hg.openCmd r c)

/-- A command with its arguments, where the command with data keeps the part. -/
theorem cmdWith (hg : OutsideGroups f) {c : Byte} (hdata : ∀ bs, Keeps d m f [.cmd c, .data bs]) (args : List Byte) :
    Keeps d m f (cmdWith c args) :=
  ite (fun _ => cmd hg c) fun _ => hdata args

theorem optionalWrite {o : Option (Byte × Byte)}
    (hdata : ∀ c b, o = some (c, b) → ∀ bs, Keeps d m f [.cmd c, .data bs]) :
    Keeps d m f (optionalWrite o) := by
  cases o with
  | none => exact nil
  | some p => exact hdata p.1 p.2 rfl [p.2]

/-- The temperature read (R139): its one `DATA` is the pre-update's. -/
theorem tempReadEvents (hg : OutsideGroups f) (hpre : Keeps d m f (Machine.optionalWrite d.tempPreUpdate)) (b : Byte) :
    Keeps d m f (tempReadEvents d b) :=
  (hpre.append (cmdWait hg _ _ _)).append (read _ _)

/-- `REFRESH` (R120): data goes out with the pre-update of its temperature read and with its window reset alone. -/
theorem refreshEvents (hg : OutsideGroups f) (hpre : Keeps d m f (Machine.optionalWrite d.tempPreUpdate))
    (hwindow : Keeps d m f (refreshWindowEvents d m)) (b : Byte) : Keeps d m f (refreshEvents d m b) :=
  ((((cmdWait hg _ _ _).append (ite (fun _ => tempReadEvents hg hpre b) fun _ => nil)).append
    (cmdWait hg _ _ _)).append hwindow).append (cmdWait hg _ _ _)

theorem sleepEvents (hg : OutsideGroups f) (hdata : ∀ bs, Keeps d m f [.cmd d.cSleep, .data bs]) (l : Lifecycle) :
    Keeps d m f (sleepEvents d l) :=
  (ite (fun _ => cmdWait hg _ _ _) fun _ => nil).append (cmdWith hg hdata _)

/-! ### RAM -/

/-- A command that opens no plane stores nothing (R43). -/
theorem cram {c : Byte} (hc : isRamCmd d m c = false) (bs : List Byte) : Keeps d m Receiver.cram [.cmd c, .data bs] :=
  fun r => (r.openCmd c).takeData_cram d m c bs rfl hc

/-- `SET_WINDOW` stores nothing, its commands being none of the planes'. -/
theorem cram_setWindow (hcodes : CodesApart d m) (x y w h : Nat) : Keeps d m Receiver.cram (setWindow d x y w h) := by
  obtain ⟨_, hcodes⟩ := hcodes
  unfold setWindow
  cases hs : d.addrStyle with
  | window =>
    simp only [hs] at hcodes
    exact cram hcodes _
  | counter =>
    simp only [hs] at hcodes
    obtain ⟨hx, hy, hxc, hyc, _⟩ := hcodes
    exact (cram hx _).append ((cram hy _).append ((cram hxc _).append (cram hyc _)))

theorem cram_refreshWindowEvents (hcodes : CodesApart d m) : Keeps d m Receiver.cram (refreshWindowEvents d m) :=
  ite (fun _ => cram_setWindow hcodes _ _ _ _) fun _ => nil

/-! ### The window -/

/-- The window stays under a RAM command, which stores bytes, and under every command that addresses nothing (R57). -/
theorem window {c : Byte} (hc : isRamCmd d m c = true ∨ isAddressing d c = false) (bs : List Byte) :
    Keeps d m (Receiver.window d) [.cmd c, .data bs] := fun r => by
  show ((r.openCmd c).takeData d m bs).window d = r.window d
  cases hram : isRamCmd d m c with
  | true => exact ((r.openCmd c).takeData_ram d m rfl hram bs) ▸ (r.openCmd c).storeRam_window d m c bs
  | false =>
    have haddr : isAddressing d c = false := hc.resolve_left (by simp [hram])
    rw [(r.openCmd c).takeData_args d m rfl hram, Receiver.takeArgs_of_not_addressing d _ haddr]
    split <;> rfl

end Keeps

/-- Cells are read from RAM. -/
theorem cell_of_cram_eq {r r' : Receiver} (h : r'.cram = r.cram) (p : Byte) (c row : Nat) :
    r'.cell p c row = r.cell p c row := by
  rw [Receiver.cell, Receiver.cell, h]

end Sys2Proof.Machine

namespace Sys2Proof.Proofs

open Sys2Proof.Machine

/-- Settles O59: each of these operations sends data with commands that open no plane, or sends nothing. -/
theorem otherOperationsKeepRam : Obligations.OtherOperationsKeepRam := by
  intro i s t m d hb hi hsleep hforce hpre hcascade hcodes e p col row
  refine cell_of_cram_eq ?_ p col row
  have hpreKeeps : Keeps d m Receiver.cram (optionalWrite d.tempPreUpdate) :=
    .optionalWrite fun c b h => .cram (hpre c b h)
  rcases hi with rfl | rfl | rfl | ⟨v, rfl⟩ | rfl | rfl | rfl
  · obtain ⟨_, rfl⟩ := gated_of_bound hb (execRefresh_next e)
    exact Keeps.refreshEvents outsideGroups_cram hpreKeeps (.cram_refreshWindowEvents hcodes) _ s.receiver
  · obtain ⟨_, rfl⟩ := gated_of_bound hb (execSleep_next e)
    exact Keeps.sleepEvents outsideGroups_cram (Keeps.cram hsleep) _ s.receiver
  · obtain ⟨_, rfl⟩ := gated_of_bound hb (execReadTemperature_next e)
    exact Keeps.tempReadEvents outsideGroups_cram hpreKeeps _ s.receiver
  · obtain ⟨_, rfl⟩ := gated_of_bound hb (execForceTemperature_next e)
    have hcascadeKeeps : Keeps d m Receiver.cram (optionalWrite d.forcePreCascade) :=
      .optionalWrite fun c b h => .cram (hcascade c b h)
    exact hcascadeKeeps.append (.cram hforce [v]) s.receiver
  · cases (execGetActiveModel_eq s).symm.trans e
    rfl
  · cases (execLutDump_eq s).symm.trans e
    rfl
  · cases (execRamStream_eq s).symm.trans e
    rfl

end Sys2Proof.Proofs
end

section
/-! `SET_WINDOW` on the receiver (R92, R94, R97): what its commands leave, and that the coordinates sent are read
back. -/

namespace Sys2Proof.Machine

open Sys2Proof.Spec

variable (d : Driver) (m : Model) (r : Receiver)

/-! ### Coordinates read back -/

theorem spanTo_of_le {first last : Nat} (h : first ≤ last) : spanTo first last = some ⟨first, last - first + 1⟩ :=
  if_pos h

theorem spanBelow_of_lt {first stop : Nat} (h : first < stop) : spanBelow first stop = some ⟨first, stop - first⟩ :=
  if_pos h

/-- The last byte-column of a window is that of its last pixel column (R97). -/
theorem lastCol_eq (x w : Nat) : ((x + w - 1) ||| 7) / 8 = (x + w - 1) / 8 := by
  rw [or_seven]
  omega

theorem spanTo_rows {y h : Nat} (hh : 1 ≤ h) : spanTo y (y + h - 1) = some ⟨y, h⟩ := by
  rw [spanTo_of_le (by omega), show y + h - 1 - y + 1 = h by omega]

/-- The rows of a window are read back under either end convention (R94). -/
theorem spanOf_counterEndRow {inclusive : Bool} {y h : Nat} (hh : 1 ≤ h) :
    spanOf inclusive y (counterEndRow inclusive y h) = some ⟨y, h⟩ := by
  cases inclusive with
  | true => exact spanTo_rows hh
  | false =>
    show spanBelow y (y + h) = _
    rw [spanBelow_of_lt (by omega), show y + h - y = h by omega]

/-- The byte-columns of a window are read back under either end convention, the exclusive end 256 among them (R97). -/
theorem spanOfX_counterEndCol {inclusive : Bool} {x w : Nat} (hw : 1 ≤ w) (hfits : (x + w - 1) / 8 < 256) :
    spanOfX inclusive (indexByte (x / 8)) (endByte (x / 8) (counterEndCol inclusive x w)) =
      some ⟨x / 8, (x + w - 1) / 8 - x / 8 + 1⟩ := by
  have hle : x / 8 ≤ (x + w - 1) / 8 := Nat.div_le_div_right (by omega)
  have hfirst : (indexByte (x / 8)).toNat = x / 8 := indexByte_toNat _ (by omega)
  cases inclusive with
  | true =>
    have hlast : (endByte (x / 8) ((x + w - 1) / 8)).toNat = (x + w - 1) / 8 := endByte_toNat _ _ hfits
    simp only [spanOfX, counterEndCol, if_true, hfirst, hlast]
    exact spanTo_of_le hle
  | false =>
    have hstop : exclusiveStop (indexByte (x / 8)) (endByte (x / 8) ((x + w - 1) / 8 + 1)) = (x + w - 1) / 8 + 1 := by
      by_cases h256 : (x + w - 1) / 8 + 1 = 256
      · have h := exclusiveStop_256 (indexByte (x / 8))
        rwa [hfirst, ← h256] at h
      · have hlast := endByte_toNat (x / 8) ((x + w - 1) / 8 + 1) (by omega)
        rw [exclusiveStop_of_lt _ _ (by rw [hfirst, hlast]; omega), hlast]
    simp only [spanOfX, counterEndCol, Bool.false_eq_true, if_false, hfirst, hstop]
    rw [spanBelow_of_lt (by omega), show (x + w - 1) / 8 + 1 - x / 8 = (x + w - 1) / 8 - x / 8 + 1 by omega]

/-! ### The commands on the receiver -/

/-- A command that opens no plane takes the bytes that come with it as its arguments. -/
theorem Receiver.feedAll_cmd_data {c : Byte} (hc : isRamCmd d m c = false) (bs : List Byte)
    (es : List Event) :
    r.feedAll d m (.cmd c :: .data bs :: es) =
      (Receiver.takeArgs d { r.openCmd c with args := bs } c bs).feedAll d m es :=
  congrArg (Receiver.feedAll d m · es) ((r.openCmd c).takeData_args d m rfl hc bs)

/-- After `SET_WINDOW` of the window style (R92). -/
theorem Receiver.windowStyle_window (hs : d.addrStyle = .window) (hram : isRamCmd d m d.cWindow = false) {x y w h : Nat}
    (hw : 1 ≤ w) (hh : 1 ≤ h) (hx : x + w ≤ 65536) (hy : y + h ≤ 65536) :
    (r.feedAll d m (windowStyleEvents d x y w h)).window d =
      some (⟨x / 8, ((x + w - 1) ||| 7) / 8 - x / 8 + 1⟩, ⟨y, h⟩) := by
  have hcols : (x - x % 8) / 8 = x / 8 := by omega
  have hlast := or_seven (x + w - 1)
  rw [windowStyleEvents, feedAll_cmd_data d m r hram, feedAll_nil, takeArgs, hs]
  simp only [if_true, takeWindow, fmtWindow, window, hs]
  rw [ofHiLo_hi_lo _ (by omega), ofHiLo_hi_lo _ (by omega), ofHiLo_hi_lo _ (by omega), ofHiLo_hi_lo _ (by omega), hcols,
    spanTo_of_le (by omega), spanTo_rows hh]

/-- After `SET_WINDOW` of the counter style (R94): each of the four commands leaves one field, and none of the later
ones touches it. -/
theorem Receiver.counterStyle_fields (hs : d.addrStyle = .counter) (hcodes : CodesApart d m) (x y w h : Nat) :
    (r.feedAll d m (counterStyleEvents d x y w h)).cols =
        spanOfX d.endInclusive (indexByte (x / 8)) (endByte (x / 8) (counterEndCol d.endInclusive x w)) ∧
      (r.feedAll d m (counterStyleEvents d x y w h)).rows =
        spanOf d.endInclusive (ofHiLo (hi y) (lo y))
          (ofHiLo (hi (counterEndRow d.endInclusive y h)) (lo (counterEndRow d.endInclusive y h))) ∧
      (r.feedAll d m (counterStyleEvents d x y w h)).xCount = some (indexByte (x / 8)).toNat ∧
      (r.feedAll d m (counterStyleEvents d x y w h)).yCount = some (ofHiLo (hi y) (lo y)) := by
  obtain ⟨_, hcodes⟩ := hcodes
  simp only [hs] at hcodes
  obtain ⟨hx, hy, hxc, hyc, hxy, hxxc, hxyc, hyxc, hyyc, hxcyc⟩ := hcodes
  rw [counterStyleEvents, feedAll_cmd_data d m _ hx, feedAll_cmd_data d m _ hy, feedAll_cmd_data d m _ hxc,
    feedAll_cmd_data d m _ hyc, feedAll_nil]
  simp only [takeArgs, hs, if_true, hxy.symm, hxxc.symm, hyxc.symm, hxyc.symm, hyyc.symm, hxcyc.symm, if_false]
  exact ⟨rfl, rfl, rfl, rfl⟩

theorem Receiver.counterStyle_window (hs : d.addrStyle = .counter) (hcodes : CodesApart d m) {x y w h : Nat}
    (hw : 1 ≤ w) (hh : 1 ≤ h) (hfits : (x + w - 1) / 8 < 256) (hend : counterEndRow d.endInclusive y h < 65536)
    (hy : y < 65536) :
    (r.feedAll d m (counterStyleEvents d x y w h)).window d =
      some (⟨x / 8, ((x + w - 1) ||| 7) / 8 - x / 8 + 1⟩, ⟨y, h⟩) := by
  obtain ⟨hcols, hrows, hxCount, hyCount⟩ := r.counterStyle_fields d m hs hcodes x y w h
  have hle : x / 8 ≤ (x + w - 1) / 8 := Nat.div_le_div_right (by omega)
  rw [spanOfX_counterEndCol hw hfits] at hcols
  rw [ofHiLo_hi_lo _ hy, ofHiLo_hi_lo _ hend, spanOf_counterEndRow hh] at hrows
  rw [indexByte_toNat _ (by omega)] at hxCount
  rw [ofHiLo_hi_lo _ hy] at hyCount
  rw [lastCol_eq]
  simp only [window, hcols, hrows, hs, hxCount, hyCount, and_self, if_true]

/-- `SET_WINDOW` leaves the window R97 names, whatever it was before. -/
theorem Receiver.setWindow_window (hcodes : CodesApart d m) {x y w h : Nat} (hw : 1 ≤ w) (hh : 1 ≤ h)
    (hx : x + w ≤ 65536) (hy : y + h ≤ 65536) (hexcl : d.addrStyle = .counter → d.endInclusive = false → y + h ≤ 65535)
    (hfits : EndColumnFits d x w) :
    (r.feedAll d m (setWindow d x y w h)).window d =
      some (⟨x / 8, ((x + w - 1) ||| 7) / 8 - x / 8 + 1⟩, ⟨y, h⟩) := by
  unfold setWindow
  cases hs : d.addrStyle with
  | window =>
    have hram : isRamCmd d m d.cWindow = false := by
      obtain ⟨_, hcodes⟩ := hcodes
      simpa only [hs] using hcodes
    exact r.windowStyle_window d m hs hram hw hh hx hy
  | counter =>
    have hend : counterEndRow d.endInclusive y h < 65536 := by
      cases hi : d.endInclusive with
      | true => simp only [counterEndRow, if_true]; omega
      | false =>
        have := hexcl hs hi
        simp only [counterEndRow, Bool.false_eq_true, if_false]
        omega
    exact r.counterStyle_window d m hs hcodes hw hh (hfits hs) hend (by omega)

end Sys2Proof.Machine

namespace Sys2Proof.Proofs

open Sys2Proof.Machine Sys2Proof.Spec

/-- Settles O52: each style's commands leave the spans that the bytes sent are read back as. -/
theorem setWindowProgramsReceiver : Obligations.SetWindowProgramsReceiver :=
  fun d m r _ _ _ _ hcodes hw hh hx hy hexcl hfits => r.setWindow_window d m hcodes hw hh hx hy hexcl hfits

/-- Settles O58: `REFRESH` sends data to an addressing command in its window reset alone, after which nothing but the
power-off command and its wait follows. -/
theorem refreshAndTheWindow : Obligations.RefreshAndTheWindow := by
  intro s m d hb hl hcodes hw1 hw hh1 hh hpre
  have hg := outsideGroups_window d
  have hpreKeeps : Keeps d m (Receiver.window d) (optionalWrite d.tempPreUpdate) :=
    .optionalWrite fun c b h => .window (.inr (hpre c b h))
  refine ⟨_, execRefresh_of_bound hb hl, fun hkeep => ?_, fun hreset hfits => ?_⟩
  · have hnone : Keeps d m (Receiver.window d) (refreshWindowEvents d m) :=
      .ite (fun hreset => absurd (hkeep.symm.trans hreset) nofun) fun _ => .nil
    exact Keeps.refreshEvents hg hpreKeeps hnone _ s.receiver
  · have hpof : Keeps d m (Receiver.window d) (pofEvents d) := .cmdWait hg _ _ _
    show (s.receiver.feedAll d m (refreshEvents d m s.nextAnswer)).window d = _
    rw [refreshEvents, Receiver.feedAll_append, hpof, Receiver.feedAll_append, refreshWindowEvents,
      if_pos hreset, fullWindow, Receiver.setWindow_window d m _ hcodes hw1 hh1 (by omega) (by omega)
        (fun _ _ => by omega) hfits]
    simp

end Sys2Proof.Proofs
end

section
/-! RAM writes on the receiver (R43, R55): which byte each cell holds after one, and which cells it leaves alone. -/

namespace Sys2Proof.Machine

open Sys2Proof.Spec

/-! ### Storing cells -/

/-- An address that is stored to, with one byte only, holds that byte. -/
theorem Memory.read_writeAll_eq {cells : List Host.Cell} {a : Nat} {b : Byte} (mem : Memory)
    (hmem : ∃ c ∈ cells, c.1 = a) (hall : ∀ c ∈ cells, c.1 = a → c.2 = b) :
    (Memory.writeAll cells mem).read a = some b := by
  induction cells generalizing mem with
  | nil => simp at hmem
  | cons c cs ih =>
    rw [Memory.writeAll_cons]
    by_cases hcs : ∃ e ∈ cs, e.1 = a
    · exact ih _ hcs fun e he => hall e (List.mem_cons_of_mem _ he)
    · have hlater : ∀ e ∈ cs, e.1 ≠ a := fun e he h => hcs ⟨e, he, h⟩
      obtain ⟨e, he, hea⟩ := hmem
      obtain rfl : e = c := (List.mem_cons.1 he).resolve_right fun h => hlater e h hea
      rw [Memory.read_writeAll_other _ _ _ hlater, hea, Memory.read_write_self, hall e he hea]

/-- The cells of a RAM write: byte `j` of the run at the address of its place. -/
theorem mem_windowCells {cols rows : Span} {p : Byte} {k : Nat} {bs : List Byte} {c : Host.Cell} :
    c ∈ windowCells cols rows p k bs ↔ ∃ j b, bs[j]? = some b ∧ c = (windowAddr cols rows p (k + j), b) := by
  induction bs generalizing k with
  | nil => simp [windowCells]
  | cons b bs ih =>
    rw [windowCells, List.mem_cons, ih]
    constructor
    · rintro (rfl | ⟨j, b', hb, rfl⟩)
      · exact ⟨0, b, rfl, rfl⟩
      · exact ⟨j + 1, b', by simpa using hb, by rw [Nat.add_assoc, Nat.add_comm 1]⟩
    · rintro ⟨j, b', hb, rfl⟩
      cases j with
      | zero => exact .inl (by simpa using hb.symm)
      | succ j => exact .inr ⟨j, b', by simpa using hb, by rw [Nat.add_assoc, Nat.add_comm 1]⟩

/-- Distinct places of a window have distinct addresses. -/
theorem windowAddr_inj {cols rows : Span} {p : Byte} {j k : Nat} (hcols : cols.first + cols.count ≤ 8192)
    (hj : j < cols.count * rows.count) (hk : k < cols.count * rows.count)
    (h : windowAddr cols rows p j = windowAddr cols rows p k) : j = k := by
  have hpos : 0 < cols.count := Nat.pos_of_mul_pos_right (Nat.zero_lt_of_lt hj)
  have hjmod := Nat.mod_lt j hpos
  have hkmod := Nat.mod_lt k hpos
  rw [windowAddr_lt _ _ _ _ hj, windowAddr_lt _ _ _ _ hk] at h
  obtain ⟨_, hcol, hrow⟩ := cramAddr_inj (by omega) (by omega) h
  rw [← Nat.mod_add_div j cols.count, ← Nat.mod_add_div k cols.count, Nat.add_left_cancel hcol,
    Nat.add_left_cancel hrow]

/-- The place of column `i`, row `j`, in a run of rows is inside the run. -/
theorem rowMajor_lt {i j c n : Nat} (hi : i < c) (hj : j < n) : i + j * c < c * n := by
  calc i + j * c < (j + 1) * c := by rw [Nat.succ_mul]; omega
    _ ≤ n * c := Nat.mul_le_mul_right _ hj
    _ = c * n := Nat.mul_comm _ _

/-- The window's cell in byte-column `i`, row `j`. -/
theorem windowAddr_rowMajor {cols rows : Span} {p : Byte} {i j : Nat} (hi : i < cols.count) (hj : j < rows.count) :
    windowAddr cols rows p (i + j * cols.count) = cramAddr p (cols.first + i) (rows.first + j) := by
  rw [windowAddr_lt _ _ _ _ (rowMajor_lt hi hj), Nat.add_mul_mod_self_right, Nat.mod_eq_of_lt hi,
    Nat.add_mul_div_right _ _ (Nat.zero_lt_of_lt hi), Nat.div_eq_of_lt hi, Nat.zero_add]

/-- The plane's number is the low byte of a cell's address. -/
theorem cramAddr_mod (p : Byte) (c row : Nat) : cramAddr p c row % 256 = p.toNat := by
  have hp := p.isLt
  unfold cramAddr
  omega

theorem cramAddr_ne_of_plane_ne {p q : Byte} (h : p ≠ q) (c row c' row' : Nat) :
    cramAddr p c row ≠ cramAddr q c' row' := fun he =>
  h (BitVec.eq_of_toNat_eq (by rw [← cramAddr_mod p c row, he, cramAddr_mod]))

/-! ### One RAM write -/

section

variable {d : Driver} {m : Model} {r : Receiver} {p q : Byte} {cols rows : Span} {bs : List Byte} {col row : Nat}

/-- A cell lies in a window. -/
def InWindow (cols rows : Span) (col row : Nat) : Prop :=
  cols.first ≤ col ∧ col < cols.first + cols.count ∧ rows.first ≤ row ∧ row < rows.first + rows.count

/-- A command and its bytes, as a RAM write stores them. -/
def Receiver.writeRam (d : Driver) (m : Model) (r : Receiver) (q : Byte) (bs : List Byte) : Receiver :=
  (r.openCmd q).takeData d m bs

theorem Receiver.feedAll_ram (es : List Event) :
    r.feedAll d m (.cmd q :: .data bs :: es) = (r.writeRam d m q bs).feedAll d m es := rfl

theorem isRamCmd_of_opensPlane (hq : OpensPlane d m q) : isRamCmd d m q = true := (isRamCmd_iff d m q).2 hq

theorem Receiver.writeRam_eq_storeRam (hq : OpensPlane d m q) :
    r.writeRam d m q bs = (r.openCmd q).storeRam d m q bs :=
  (r.openCmd q).takeData_ram d m rfl (isRamCmd_of_opensPlane hq) bs

/-- A RAM write leaves the window where it is (R57). -/
theorem Receiver.writeRam_window (hq : OpensPlane d m q) : (r.writeRam d m q bs).window d = r.window d :=
  Keeps.window (.inl (isRamCmd_of_opensPlane hq)) bs r

/-- In a known window inside the plane, the bytes go to the window's cells from the first one on. -/
theorem Receiver.writeRam_cram (hq : OpensPlane d m q) (hw : r.window d = some (cols, rows))
    (hin : InsidePlane d m cols rows) :
    (r.writeRam d m q bs).cram = Memory.writeAll (windowCells cols rows q 0 bs) r.cram := by
  rw [writeRam_eq_storeRam hq, storeRam_of_inside d m (r.openCmd q) hw hin]
  rfl

/-- In a known window that reaches beyond the plane, the plane's cells are forgotten (log 28). -/
theorem Receiver.writeRam_cram_of_not_inside (hq : OpensPlane d m q) (hw : r.window d = some (cols, rows))
    (hout : ¬InsidePlane d m cols rows) : (r.writeRam d m q bs).cram = forgetPlane r.cram q := by
  have hout' : ∀ cols rows, (r.openCmd q).window d = some (cols, rows) → ¬InsidePlane d m cols rows := by
    intro cols' rows' hw'
    cases hw.symm.trans hw'
    exact hout
  rw [writeRam_eq_storeRam hq, storeRam_of_not_inside d m (r.openCmd q) hout']
  rfl

/-- A plane's byte-columns are below 8192, its panel being less than 65536 pixels wide. -/
theorem insidePlane_cols_le (hwidth : m.width ≤ 65535) (hin : InsidePlane d m cols rows) :
    cols.first + cols.count ≤ 8192 := by
  obtain ⟨_, _, hcols, _⟩ := hin
  omega

/-- Every cell stored to is a cell of the window. -/
theorem windowCells_inWindow (hin : InsidePlane d m cols rows) {c : Host.Cell} (hc : c ∈ windowCells cols rows q 0 bs) :
    ∃ col row, InWindow cols rows col row ∧ c.1 = cramAddr q col row := by
  obtain ⟨hcols, hrows, _⟩ := hin
  obtain ⟨i, hi, j, hj, h⟩ := windowCells_inside cols rows q hcols hrows 0 bs c hc
  exact ⟨_, _, ⟨by omega, by omega, by omega, by omega⟩, h⟩

/-- The first bytes of a write, as many as the window has cells, stand row by row (R55). -/
theorem Receiver.writeRam_cell (hq : OpensPlane d m q) (hw : r.window d = some (cols, rows))
    (hin : InsidePlane d m cols rows) (hwidth : m.width ≤ 65535) (hlen : bs.length ≤ cols.count * rows.count) {k : Nat}
    {b : Byte} (hk : bs[k]? = some b) :
    (r.writeRam d m q bs).cell q (cols.first + k % cols.count) (rows.first + k / cols.count) = some b := by
  have hlt {j : Nat} {b' : Byte} (hj : bs[j]? = some b') : j < cols.count * rows.count :=
    (List.getElem?_eq_some_iff.1 hj).1.trans_le hlen
  rw [cell, writeRam_cram hq hw hin, ← windowAddr_lt cols rows q k (hlt hk)]
  refine Memory.read_writeAll_eq _ ⟨_, mem_windowCells.2 ⟨k, b, hk, rfl⟩, by rw [Nat.zero_add]⟩ fun c hc hck => ?_
  obtain ⟨j, b', hj, rfl⟩ := mem_windowCells.1 hc
  rw [Nat.zero_add] at hck
  obtain rfl := windowAddr_inj (insidePlane_cols_le hwidth hin) (hlt hj) (hlt hk) hck
  exact Option.some.inj (hj.symm.trans hk)

/-- A write of one byte over and over, long enough for the window, leaves it in every cell of the window. -/
theorem Receiver.writeRam_replicate_cell {n : Nat} {b : Byte} (hq : OpensPlane d m q)
    (hw : r.window d = some (cols, rows)) (hin : InsidePlane d m cols rows) (hn : cols.count * rows.count ≤ n)
    {i j : Nat} (hi : i < cols.count) (hj : j < rows.count) :
    (r.writeRam d m q (List.replicate n b)).cell q (cols.first + i) (rows.first + j) = some b := by
  rw [cell, writeRam_cram hq hw hin, ← windowAddr_rowMajor hi hj]
  refine Memory.read_writeAll_eq _ ⟨_, mem_windowCells.2 ⟨i + j * cols.count, b, ?_, rfl⟩, by rw [Nat.zero_add]⟩
    fun c hc _ => ?_
  · exact List.getElem?_replicate_of_lt ((rowMajor_lt hi hj).trans_le hn)
  · obtain ⟨_, b', hb', rfl⟩ := mem_windowCells.1 hc
    exact List.eq_of_mem_replicate (List.mem_of_getElem? hb')

/-- A write leaves the cells of every other plane alone. -/
theorem Receiver.writeRam_cell_other_plane (hq : OpensPlane d m q) (hw : r.window d = some (cols, rows)) (hp : p ≠ q) :
    (r.writeRam d m q bs).cell p col row = r.cell p col row := by
  by_cases hin : InsidePlane d m cols rows
  · rw [cell, writeRam_cram hq hw hin]
    refine Memory.read_writeAll_other _ _ _ fun c hc => ?_
    obtain ⟨col', row', _, hc⟩ := windowCells_inWindow hin hc
    rw [hc]
    exact (cramAddr_ne_of_plane_ne hp _ _ _ _).symm
  · rw [cell, writeRam_cram_of_not_inside hq hw hin, read_forgetPlane, cramAddr_mod, if_neg, cell]
    exact fun h => hp (BitVec.eq_of_toNat_eq h)

/-- A write in a window inside the plane leaves the cells outside the window alone. -/
theorem Receiver.writeRam_cell_outside (hq : OpensPlane d m q) (hw : r.window d = some (cols, rows))
    (hin : InsidePlane d m cols rows) (hwidth : m.width ≤ 65535) (hcol : col < 8192)
    (hout : ¬InWindow cols rows col row) : (r.writeRam d m q bs).cell p col row = r.cell p col row := by
  rw [cell, writeRam_cram hq hw hin]
  refine Memory.read_writeAll_other _ _ _ fun c hc h => hout ?_
  obtain ⟨col', row', hwin, hc⟩ := windowCells_inWindow hin hc
  have hcols := insidePlane_cols_le hwidth hin
  have hcol' : col' < 8192 := by
    obtain ⟨_, hlt, _⟩ := hwin
    omega
  obtain ⟨_, rfl, rfl⟩ := cramAddr_inj hcol' hcol (hc.symm.trans h)
  exact hwin

/-- A write in a window that reaches beyond the plane leaves no cell of the plane known. -/
theorem Receiver.writeRam_cell_of_not_inside (hq : OpensPlane d m q) (hw : r.window d = some (cols, rows))
    (hout : ¬InsidePlane d m cols rows) : (r.writeRam d m q bs).cell q col row = none := by
  rw [cell, writeRam_cram_of_not_inside hq hw hout, read_forgetPlane, cramAddr_mod, if_pos rfl]

/-- A write gives no cell outside the plane a value. -/
theorem Receiver.writeRam_cell_beyond_plane (hq : OpensPlane d m q) (hw : r.window d = some (cols, rows))
    (hwidth : m.width ≤ 65535) (hcol : col < 8192)
    (hout : ¬(col < (m.width + 7) / 8 ∧ row < if d.planeStrategy = .doubleHeight then 2 * m.height else m.height)) :
    (r.writeRam d m q bs).cell q col row = none ∨ (r.writeRam d m q bs).cell q col row = r.cell q col row := by
  by_cases hin : InsidePlane d m cols rows
  · refine .inr (writeRam_cell_outside hq hw hin hwidth hcol fun hwin => hout ?_)
    obtain ⟨_, _, hcols, hrows⟩ := hin
    obtain ⟨_, hltc, _, hltr⟩ := hwin
    exact ⟨hltc.trans_le hcols, hltr.trans_le hrows⟩
  · exact .inl (writeRam_cell_of_not_inside hq hw hin)

end

end Sys2Proof.Machine

namespace Sys2Proof.Proofs

open Sys2Proof.Machine Sys2Proof.Spec

/-- Settles O53: the bytes of a write go to distinct cells in order; a window inside the plane has no cell outside it,
and one that reaches beyond it makes the plane unknown; a command that opens no plane takes its data as arguments. -/
theorem ramWriteIsRowMajor : Obligations.RamWriteIsRowMajor := by
  constructor
  · intro d m r cols rows p bs hw hp hwidth
    exact ⟨fun hin hlen k b hk => Receiver.writeRam_cell hp hw hin hwidth hlen hk,
      fun hout c row => Receiver.writeRam_cell_of_not_inside hp hw hout,
      fun c row hc hout => Receiver.writeRam_cell_beyond_plane hp hw hwidth hc hout⟩
  · intro d m r c bs hc p col row
    have hram : isRamCmd d m c = false := by rwa [← Bool.not_eq_true, isRamCmd_iff]
    exact cell_of_cram_eq (Keeps.cram hram bs r) p col row

end Sys2Proof.Proofs
end

section
/-! `CLEAR` on the receiver (R129, R132, R189): fills go where the window stands. -/

namespace Sys2Proof.Machine

open Sys2Proof.Spec

variable {d : Driver} {m : Model} {r r' r'' : Receiver} {p q b : Byte} {cols rows : Span} {bs : List Byte}

/-! ### The frame of RAM writes -/

/-- From `r` to `r'` nothing was stored outside the window and outside the planes of the model, and the window
stayed. -/
structure StaysInWindow (d : Driver) (m : Model) (cols rows : Span) (r r' : Receiver) : Prop where
  window : r'.window d = some (cols, rows)
  planes : ∀ p col row, ¬OpensPlane d m p → r'.cell p col row = r.cell p col row
  cells  : InsidePlane d m cols rows → ∀ p col row, col < 8192 → ¬InWindow cols rows col row →
    r'.cell p col row = r.cell p col row

theorem StaysInWindow.trans (h : StaysInWindow d m cols rows r r') (h' : StaysInWindow d m cols rows r' r'') :
    StaysInWindow d m cols rows r r'' where
  window := h'.window
  planes p col row hp := (h'.planes p col row hp).trans (h.planes p col row hp)
  cells hin p col row hcol hout := (h'.cells hin p col row hcol hout).trans (h.cells hin p col row hcol hout)

theorem StaysInWindow.writeRam (hw : r.window d = some (cols, rows)) (hwidth : m.width ≤ 65535) (hq : OpensPlane d m q)
    (bs : List Byte) : StaysInWindow d m cols rows r (r.writeRam d m q bs) where
  window := (Receiver.writeRam_window hq).trans hw
  planes _ _ _ hp := Receiver.writeRam_cell_other_plane hq hw fun h => hp (h ▸ hq)
  cells hin _ _ _ hcol hout := Receiver.writeRam_cell_outside hq hw hin hwidth hcol hout

/-- The end of a group touches neither cells nor the window. -/
theorem StaysInWindow.close (h : StaysInWindow d m cols rows r r') : StaysInWindow d m cols rows r r'.close :=
  ⟨h.window, h.planes, h.cells⟩

/-- A `FILL` is a RAM write of one byte over and over, and the end of its group (R56). -/
theorem Receiver.feedAll_fill (n : Nat) (es : List Event) :
    r.feedAll d m (.fill q b n :: es) = (r.writeRam d m q (List.replicate n b)).close.feedAll d m es := rfl

theorem opensPlane_black (d : Driver) (m : Model) : OpensPlane d m m.cmdRamBlack := .inl rfl

theorem opensPlane_color (hs : d.planeStrategy = .sequential) : OpensPlane d m m.cmdRamColor := .inr ⟨hs, rfl⟩

theorem clearEvents_stays (hw : r.window d = some (cols, rows)) (hwidth : m.width ≤ 65535) :
    StaysInWindow d m cols rows r (r.feedAll d m (clearEvents d m)) := by
  have hblack (n : Nat) :=
    (StaysInWindow.writeRam hw hwidth (opensPlane_black d m) (List.replicate n d.fillerBlack)).close
  unfold clearEvents
  cases hs : d.planeStrategy with
  | single | doubleHeight =>
    rw [Receiver.feedAll_fill, Receiver.feedAll_nil]
    exact hblack _
  | sequential =>
    rw [Receiver.feedAll_fill, Receiver.feedAll_fill, Receiver.feedAll_nil]
    exact (hblack _).trans (.close (.writeRam (hblack _).window hwidth (opensPlane_color hs) _))

/-! ### The bytes of the fills -/

/-- The plane `q` after a fill with `b`: the filler in every cell of a window inside it, and no cell known where the
window reaches beyond it (log 28). -/
structure Filled (d : Driver) (m : Model) (cols rows : Span) (q b : Byte) (r : Receiver) : Prop where
  inside  : InsidePlane d m cols rows → ∀ i < cols.count, ∀ j < rows.count,
    r.cell q (cols.first + i) (rows.first + j) = some b
  outside : ¬InsidePlane d m cols rows → ∀ col row, r.cell q col row = none

/-- A fill as long as the plane covers every window inside it. -/
theorem Filled.writeRam (hq : OpensPlane d m q) (hw : r.window d = some (cols, rows)) {n : Nat}
    (hn : planeExtent d m ≤ n) : Filled d m cols rows q b (r.writeRam d m q (List.replicate n b)) where
  inside hin _ hi _ hj :=
    have hcells := inPlane_cells d m cols rows ((inPlane_iff_insidePlane d m cols rows).2 hin)
    Receiver.writeRam_replicate_cell hq hw hin (hcells.trans hn) hi hj
  outside hout _ _ := Receiver.writeRam_cell_of_not_inside hq hw hout

/-- A write to another plane leaves a filled one filled. -/
theorem Filled.writeRam_other (h : Filled d m cols rows q b r) (hp : OpensPlane d m p)
    (hw : r.window d = some (cols, rows)) (hne : q ≠ p) (bs : List Byte) :
    Filled d m cols rows q b (r.writeRam d m p bs) where
  inside hin i hi j hj := (Receiver.writeRam_cell_other_plane hp hw hne).trans (h.inside hin i hi j hj)
  outside hout col row := (Receiver.writeRam_cell_other_plane hp hw hne).trans (h.outside hout col row)

theorem Filled.close (h : Filled d m cols rows q b r) : Filled d m cols rows q b r.close := ⟨h.inside, h.outside⟩

/-- `CLEAR` fills the black plane, and on a dual-plane controller the colour plane (R129). -/
theorem clearEvents_filled (hw : r.window d = some (cols, rows))
    (hne : d.planeStrategy = .sequential → m.cmdRamBlack ≠ m.cmdRamColor) :
    Filled d m cols rows m.cmdRamBlack d.fillerBlack (r.feedAll d m (clearEvents d m)) ∧
      (d.planeStrategy = .sequential →
        Filled d m cols rows m.cmdRamColor d.fillerColor (r.feedAll d m (clearEvents d m))) := by
  have hblack := opensPlane_black d m
  have hextent : planeExtent d m ≤ if d.planeStrategy = .doubleHeight then 2 * panelBytes m else panelBytes m := by
    unfold planeExtent planeRows panelBytes planeCols
    cases d.planeStrategy with
    | single | sequential => exact le_rfl
    | doubleHeight => exact (Nat.mul_left_comm _ _ _).le
  unfold clearEvents
  cases hs : d.planeStrategy with
  | single | doubleHeight =>
    rw [hs] at hextent
    rw [Receiver.feedAll_fill, Receiver.feedAll_nil]
    exact ⟨(Filled.writeRam hblack hw hextent).close, nofun⟩
  | sequential =>
    rw [hs] at hextent
    rw [Receiver.feedAll_fill, Receiver.feedAll_fill, Receiver.feedAll_nil]
    have hcolor := opensPlane_color (m := m) hs
    have hw' : (r.writeRam d m m.cmdRamBlack (List.replicate (panelBytes m) d.fillerBlack)).close.window d =
        some (cols, rows) := (Receiver.writeRam_window hblack).trans hw
    exact ⟨((Filled.writeRam hblack hw hextent).close.writeRam_other hcolor hw' (hne hs) _).close,
      fun _ => (Filled.writeRam hcolor hw' hextent).close⟩

end Sys2Proof.Machine

namespace Sys2Proof.Proofs

open Sys2Proof.Machine

/-- Settles O57: the fills are RAM writes in the window as it stands, each as long as the plane, so that they cover
every window inside it. -/
theorem clearFillsTheStaleWindow : Obligations.ClearFillsTheStaleWindow := by
  intro s m d cols rows hb hl hne hw hwidth
  have hstays := clearEvents_stays hw hwidth
  obtain ⟨hblack, hcolor⟩ := clearEvents_filled hw hne
  exact ⟨_, execClear_false_of_bound hb hl, hstays.window, hstays.planes,
    fun hin => ⟨hstays.cells hin, fun i hi j hj =>
      ⟨hblack.inside hin i hi j hj, fun hs => (hcolor hs).inside hin i hi j hj⟩⟩,
    fun hout col row => ⟨hblack.outside hout col row, fun hs => (hcolor hs).outside hout col row⟩⟩

end Sys2Proof.Proofs
end

section
/-! `WRITE_IMAGE` on the receiver (R133, R137, R138): the stream it sends, the window it programs, and the cells it
stores to. -/

namespace Sys2Proof.Machine

open Sys2Proof.Spec

/-! ### The stream -/

section

variable {d : Driver} {m : Model} {buf blk col : Memory} {present bp cp : Bool} {filler : Byte} {n stride h : Nat}

theorem holds_iff_buffer : (!present || buf.holds n) = true ↔ Holds buf present n := by
  rw [Holds, Bool.or_eq_true, Bool.not_eq_true', Memory.holds_iff]
  cases present <;> simp

/-- What `buffersHold` says (R99). -/
theorem buffersHold_iff : buffersHold blk col bp cp n = true ↔ Holds blk bp n ∧ Holds col cp n := by
  rw [buffersHold, Bool.and_eq_true, holds_iff_buffer, holds_iff_buffer]

/-- A run over indices that a present buffer holds: its bytes, or the filler for each (R100). -/
theorem planeRun_eq_some {is : List Nat} (hb : Holds buf present n) (his : ∀ i ∈ is, i < n) :
    planeRun buf present filler is = some (is.map fun i => if present then (buf.read i).getD 0 else filler) := by
  cases hp : present with
  | false => rfl
  | true =>
    refine (readBytes_eq_some buf is _).2 ?_
    rw [List.map_map]
    refine List.map_congr_left fun i hi => ?_
    obtain ⟨b, hb⟩ := Option.isSome_iff_exists.1 (hb hp i (his i hi))
    simp [hb]

theorem planeBytes_eq_plane (hb : Holds buf present (stride * h)) :
    planeBytes buf present filler stride h = some (plane buf present filler (stride * h)) := by
  rw [planeBytes, planeIndices_eq_range]
  exact planeRun_eq_some hb fun _ => List.mem_range.1

/-- The doubled pass sends the plane twice (R106). -/
theorem planeRun_double_eq_plane (hb : Holds buf present (stride * h)) :
    planeRun buf present filler (doubleIndices stride h) =
      some (plane buf present filler (stride * h) ++ plane buf present filler (stride * h)) := by
  rw [doubleIndices_eq, planeIndices_eq_range, planeRun_eq_some hb (by simp), List.map_append]
  rfl

/-- Of buffers that hold the bytes, the stream is that of R102 to R106. -/
theorem stream_eq_streamed (hblk : Holds blk bp (stride * h)) (hcol : Holds col cp (stride * h)) :
    stream d m blk col bp cp stride h = some (streamed d m blk col bp cp (stride * h)) := by
  unfold stream streamed
  cases d.planeStrategy with
  | single => simp [streamSingle, planeBytes_eq_plane hblk]
  | sequential =>
    have hsecond : secondPlane d m blk col bp cp stride h =
        some (if m.color = .bw then plane blk bp d.fillerBlack (stride * h)
          else plane col cp d.fillerColor (stride * h)) := by
      unfold secondPlane
      split
      · exact planeBytes_eq_plane hblk
      · exact planeBytes_eq_plane hcol
    simp [streamSequential, planeBytes_eq_plane hblk, hsecond]
  | doubleHeight => simp [streamDoubleHeight, planeRun_double_eq_plane hblk]

theorem plane_length : (plane buf present filler n).length = n := by simp [plane]

/-- The bytes of a plane that is held, one by one. -/
theorem plane_getElem? (hb : Holds buf present n) {k : Nat} (hk : k < n) :
    (plane buf present filler n)[k]? = if present then buf.read k else some filler := by
  rw [plane, List.getElem?_map, List.getElem?_range hk]
  cases hp : present with
  | false => rfl
  | true =>
    obtain ⟨b, hb⟩ := Option.isSome_iff_exists.1 (hb hp k hk)
    simp [hb]

end

/-! ### The operation -/

section

variable {s t : State} {m : Model} {d : Driver} {bp cp : Bool} {x y w h : Half}

/-- `WRITE_IMAGE` of a rectangle inside the panel, with buffers that hold it (R133). -/
theorem execWriteImage_of_inside (hb : Bound s m d) (hl : ImageCell s) (hw : w ≠ 0) (hh : h ≠ 0)
    (hin : Inside m x y w h) (hblk : Holds s.blk bp (alignedW w / 8 * h.toNat))
    (hcol : Holds s.col cp (alignedW w / 8 * h.toNat)) :
    execWriteImage bp cp x y w h s =
      .next ((((s.setAligned (alignedX x) (alignedW w)).setStride (alignedW w / 8)).after m d
        (setWindow d (alignedX x) y.toNat (alignedW w) h.toNat ++
          streamed d m s.blk s.col bp cp (alignedW w / 8 * h.toNat)) s.lifecycle 0).finish ⟨.ok, false, 0⟩) := by
  obtain ⟨hcols, hrows⟩ := hin
  have hbounds : ((bounds (alignedX x) y.toNat (alignedW w) h.toNat m).1 &&
      (bounds (alignedX x) y.toNat (alignedW w) h.toNat m).2) = true := by simp [bounds, hcols, hrows]
  rw [execWriteImage, withModel_of_bound hb, legalImage_of_imageCell hl, ifLegal, if_pos rfl, if_neg (by tauto)]
  show writeAligned m d bp cp (alignedX x) y.toNat (alignedW w) h.toNat s = _
  rw [writeAligned, if_pos hbounds, writeRect, State.setAligned_blk, State.setAligned_col,
    if_pos (buffersHold_iff.2 ⟨hblk, hcol⟩), stream_eq_streamed hblk hcol]
  simp only [State.emitAll_eq_after, State.finishOk_eq]
  rfl

/-- What a `WRITE_IMAGE` that completes on a bound block leaves on the receiver: nothing changed, or the window and the
stream of a rectangle inside the panel. -/
theorem execWriteImage_receiver (hb : Bound s m d) (e : execWriteImage bp cp x y w h s = .next t) :
    t.receiver = s.receiver ∨
      (w ≠ 0 ∧ h ≠ 0 ∧ Inside m x y w h ∧
        t.receiver = s.receiver.feedAll d m (setWindow d (alignedX x) y.toNat (alignedW w) h.toNat ++
          streamed d m s.blk s.col bp cp (alignedW w / 8 * h.toNat))) := by
  obtain ⟨_, hw, hh, hwrite⟩ := gated_of_bound hb (execWriteImage_next e)
  rcases writeAligned_next hwrite with ⟨_, rfl⟩ | ⟨hcols, hrows, hbuffers, es, hes, rfl⟩
  · exact .inl rfl
  · obtain ⟨hblk, hcol⟩ := buffersHold_iff.1 hbuffers
    obtain rfl : streamed d m s.blk s.col bp cp (alignedW w / 8 * h.toNat) = es :=
      Option.some.inj ((stream_eq_streamed hblk hcol).symm.trans hes)
    exact .inr ⟨hw, hh, ⟨hcols, hrows⟩, rfl⟩

/-! ### The window -/

/-- The window of an aligned rectangle: its byte-columns and rows (R97). -/
abbrev imageCols (x w : Half) : Span := ⟨alignedX x / 8, alignedW w / 8⟩
@[inherit_doc imageCols] abbrev imageRows (y h : Half) : Span := ⟨y.toNat, h.toNat⟩

theorem insidePlane_of_inside (d : Driver) (hw : w ≠ 0) (hh : h ≠ 0) (hin : Inside m x y w h) :
    InsidePlane d m (imageCols x w) (imageRows y h) := by
  obtain ⟨hcols, hrows⟩ := hin
  refine ⟨stride_pos (half_toNat_pos hw), half_toNat_pos hh, ?_, ?_⟩
  · show alignedX x / 8 + alignedW w / 8 ≤ (m.width + 7) / 8
    omega
  · show y.toNat + h.toNat ≤ _
    split <;> omega

theorem setWindow_image_window (r : Receiver) (hcodes : CodesApart d m) (hw : w ≠ 0) (hh : h ≠ 0)
    (hin : Inside m x y w h) (hwidth : m.width ≤ 65535) (hheight : m.height ≤ 65535)
    (hfits : EndColumnFits d (alignedX x) (alignedW w)) :
    (r.feedAll d m (setWindow d (alignedX x) y.toNat (alignedW w) h.toNat)).window d =
      some (imageCols x w, imageRows y h) := by
  obtain ⟨hcols, hrows⟩ := hin
  have hx : alignedX x % 8 = 0 := (align_mod x.toNat w.toNat).1
  have hw8 : alignedW w % 8 = 0 := ceil8_mod w.toNat
  have hpos : 0 < alignedW w / 8 := stride_pos (half_toNat_pos hw)
  have hcount : (alignedX x + alignedW w - 1) / 8 - alignedX x / 8 + 1 = alignedW w / 8 := by omega
  rw [r.setWindow_window d m hcodes (by omega) (half_toNat_pos hh) (by omega) (by omega) (fun _ _ => by omega) hfits,
    lastCol_eq, hcount]

end

/-! ### The cells -/

section

variable {d : Driver} {m : Model} {r : Receiver} {p q : Byte} {cols rows : Span} {bs : List Byte}
  {blk col : Memory} {bp cp : Bool} {n : Nat}

/-- The stream stores in the window and in the planes of the model alone (R134, R138). -/
theorem streamed_stays (hw : r.window d = some (cols, rows)) (hwidth : m.width ≤ 65535) :
    StaysInWindow d m cols rows r (r.feedAll d m (streamed d m blk col bp cp n)) := by
  have hblack (bs : List Byte) := StaysInWindow.writeRam hw hwidth (opensPlane_black d m) bs
  unfold streamed
  cases hs : d.planeStrategy with
  | single | doubleHeight =>
    rw [Receiver.feedAll_ram, Receiver.feedAll_nil]
    exact hblack _
  | sequential =>
    rw [Receiver.feedAll_ram, Receiver.feedAll_ram, Receiver.feedAll_nil]
    exact (hblack _).trans (.writeRam (hblack _).window hwidth (opensPlane_color hs) _)

/-- The window's cells of the plane `q` hold the bytes row by row. -/
def HoldsRows (cols rows : Span) (q : Byte) (bs : List Byte) (r : Receiver) : Prop :=
  ∀ j < rows.count, ∀ i < cols.count, r.cell q (cols.first + i) (rows.first + j) = bs[i + j * cols.count]?

theorem HoldsRows.writeRam (hq : OpensPlane d m q) (hw : r.window d = some (cols, rows))
    (hin : InsidePlane d m cols rows) (hwidth : m.width ≤ 65535) (hlen : bs.length = cols.count * rows.count) :
    HoldsRows cols rows q bs (r.writeRam d m q bs) := by
  intro j hj i hi
  have hk : i + j * cols.count < bs.length := hlen ▸ rowMajor_lt hi hj
  have hcell := Receiver.writeRam_cell hq hw hin hwidth hlen.le (List.getElem?_eq_getElem hk)
  rw [Nat.add_mul_mod_self_right, Nat.mod_eq_of_lt hi, Nat.add_mul_div_right _ _ (Nat.zero_lt_of_lt hi),
    Nat.div_eq_of_lt hi, Nat.zero_add] at hcell
  rw [hcell, List.getElem?_eq_getElem hk]

/-- A write to another plane leaves them. -/
theorem HoldsRows.writeRam_other {cs : List Byte} (h : HoldsRows cols rows q bs r) (hp : OpensPlane d m p)
    (hw : r.window d = some (cols, rows)) (hne : q ≠ p) : HoldsRows cols rows q bs (r.writeRam d m p cs) :=
  fun j hj i hi => (Receiver.writeRam_cell_other_plane hp hw hne).trans (h j hj i hi)

/-- After the stream of `SINGLE` or `SEQUENTIAL` each plane holds the bytes it was given (R103, R104, R138). -/
theorem streamed_holdsRows (hw : r.window d = some (cols, rows)) (hin : InsidePlane d m cols rows)
    (hwidth : m.width ≤ 65535) (hdouble : d.planeStrategy ≠ .doubleHeight)
    (hne : d.planeStrategy = .sequential → m.cmdRamBlack ≠ m.cmdRamColor) (hn : n = cols.count * rows.count) :
    HoldsRows cols rows m.cmdRamBlack (plane blk bp d.fillerBlack n)
        (r.feedAll d m (streamed d m blk col bp cp n)) ∧
      (d.planeStrategy = .sequential →
        HoldsRows cols rows m.cmdRamColor
          (if m.color = .bw then plane blk bp d.fillerBlack n else plane col cp d.fillerColor n)
          (r.feedAll d m (streamed d m blk col bp cp n))) := by
  have hblack : HoldsRows cols rows m.cmdRamBlack (plane blk bp d.fillerBlack n)
      (r.writeRam d m m.cmdRamBlack (plane blk bp d.fillerBlack n)) :=
    .writeRam (opensPlane_black d m) hw hin hwidth (plane_length.trans hn)
  unfold streamed
  cases hs : d.planeStrategy with
  | single =>
    rw [Receiver.feedAll_ram, Receiver.feedAll_nil]
    exact ⟨hblack, nofun⟩
  | sequential =>
    rw [Receiver.feedAll_ram, Receiver.feedAll_ram, Receiver.feedAll_nil]
    have hcolor := opensPlane_color (m := m) hs
    have hw' : (r.writeRam d m m.cmdRamBlack (plane blk bp d.fillerBlack n)).window d = some (cols, rows) :=
      (Receiver.writeRam_window (opensPlane_black d m)).trans hw
    have hlen : (if m.color = .bw then plane blk bp d.fillerBlack n else plane col cp d.fillerColor n).length =
        cols.count * rows.count := by
      split <;> exact plane_length.trans hn
    exact ⟨hblack.writeRam_other hcolor hw' (hne hs), fun _ => .writeRam hcolor hw' hin hwidth hlen⟩
  | doubleHeight => exact absurd hs hdouble

end

end Sys2Proof.Machine

namespace Sys2Proof.Proofs

open Sys2Proof.Machine Sys2Proof.Spec

/-- Settles O55: the window programmed is the aligned rectangle, inside the plane, and the stream has as many bytes a
plane as the window has cells. -/
theorem goldenBytes : Obligations.GoldenBytes := by
  intro s m d bp cp x y w h hb hl hw hh hin hwidth hheight hcodes hfits hdouble hblk hcol
  have hwindow := setWindow_image_window s.receiver hcodes hw hh hin hwidth hheight hfits
  obtain ⟨hblack, hcolor⟩ := streamed_holdsRows (blk := s.blk) (col := s.col) (bp := bp) (cp := cp) hwindow
    (insidePlane_of_inside d hw hh hin) hwidth hdouble hcodes.1 rfl
  refine ⟨_, execWriteImage_of_inside hb hl hw hh hin hblk hcol, fun j hj i hi => ?_⟩
  have hk : i + j * (alignedW w / 8) < alignedW w / 8 * h.toNat := rowMajor_lt hi hj
  rw [State.finish_receiver, State.after, Receiver.feedAll_append]
  refine ⟨(hblack j hj i hi).trans (plane_getElem? hblk hk), fun hs => (hcolor hs j hj i hi).trans ?_⟩
  split
  · exact plane_getElem? hblk hk
  · exact plane_getElem? hcol hk

/-- Settles O56: a `WRITE_IMAGE` that answers an error feeds the receiver nothing; one that runs programs its window,
which stores nothing, and streams inside it. -/
theorem cellsOutsideTheWindowUnchanged : Obligations.CellsOutsideTheWindowUnchanged := by
  intro s t m d bp cp x y w h p col row hb hwidth hheight hcodes hfits e hcol hout
  rcases execWriteImage_receiver hb e with hsame | ⟨hw, hh, hin, hreceiver⟩
  · rw [hsame]
  · have hwindow := setWindow_image_window s.receiver hcodes hw hh hin hwidth hheight hfits
    have hprogram : (s.receiver.feedAll d m (setWindow d (alignedX x) y.toNat (alignedW w) h.toNat)).cell p col row =
        s.receiver.cell p col row :=
      cell_of_cram_eq (Keeps.cram_setWindow hcodes _ _ _ _ s.receiver) p col row
    have hstays := streamed_stays (blk := s.blk) (col := s.col) (bp := bp) (cp := cp)
      (n := alignedW w / 8 * h.toNat) hwindow hwidth
    rw [hreceiver, Receiver.feedAll_append, ← hprogram]
    rcases hout with hout | hp
    · refine hstays.cells (insidePlane_of_inside d hw hh hin) p col row hcol fun hwin => hout ?_
      obtain ⟨hlo, hhi, hrow, hrow'⟩ := hwin
      have hx : alignedX x % 8 = 0 := (align_mod x.toNat w.toNat).1
      have hend : col < alignedX x / 8 + alignedW w / 8 := hhi
      have hlast : col < (alignedX x + alignedW w) / 8 := by omega
      exact ⟨hlo, hlast, hrow, hrow'⟩
    · exact hstays.planes p col row hp

end Sys2Proof.Proofs
end

section
/-! The decoder (30_encoding.md): a word decodes to the operation of its opcode, each operand read from the word's own
field, and to nothing else (R63 to R69, R82). -/

namespace Sys2Proof

variable {q q' : RequestWord} {i : Instr}

/-- The operation of `i` with each operand read from a request word's field (R64, R65). -/
def Instr.withOperandsOf (q : RequestWord) : Instr → Instr
  | .bind _ => .bind (reqVal q)
  | .init => .init
  | .initFast => .initFast
  | .clear _ => .clear (flagRf (reqFlags q))
  | .writeImage .. => .writeImage (flagBp (reqFlags q)) (flagCp (reqFlags q)) (reqX q) (reqY q) (reqW q) (reqH q)
  | .refresh => .refresh
  | .sleep => .sleep
  | .readTemperature => .readTemperature
  | .forceTemperature _ => .forceTemperature (reqVal q)
  | .getActiveModel => .getActiveModel
  | .lutDump => .lutDump
  | .ramStream => .ramStream

/-- A word with an operation's opcode decodes to that operation, with the word's operands (R63, R65). -/
theorem decode_of_reqOp_eq (h : reqOp q = opcode i) : decode q = .assigned (i.withOperandsOf q) := by
  unfold decode
  rw [h]
  cases i <;> rfl

/-- A word decodes to no operation but the one of its opcode. -/
theorem reqOp_of_decode (h : decode q = .assigned i) : reqOp q = opcode i := by
  apply BitVec.eq_of_toNat_eq
  unfold decode at h
  split at h <;> cases h <;> assumption

/-- A word with no operation's opcode is rejected by its opcode (R82). -/
theorem decode_unassigned (h : ¬(1 ≤ (reqOp q).toNat ∧ (reqOp q).toNat ≤ 12)) : decode q = .unassigned (reqOp q) := by
  unfold decode
  split
  case h_13 => rfl
  all_goals omega

/-- Every operand of an encoded instruction stands in its field (R64 to R68). -/
theorem Instr.withOperandsOf_encode (i : Instr) : i.withOperandsOf (encode i) = i := by
  cases i <;> simp [Instr.withOperandsOf, encode]

/-! ### Words that agree under a mask -/

/-- Two words that agree under a mask agree on a field the mask covers. -/
theorem extractLsb'_eq_of_and_eq {n : Nat} {a b mask : BitVec n} (h : a &&& mask = b &&& mask) (start len : Nat)
    (hmask : mask.extractLsb' start len = BitVec.allOnes len) : a.extractLsb' start len = b.extractLsb' start len := by
  have hfield := congrArg (BitVec.extractLsb' start len) h
  simpa only [BitVec.extractLsb'_and, hmask, BitVec.and_allOnes] using hfield

/-- Two words that agree under a mask agree on a bit the mask covers. -/
theorem getLsbD_eq_of_and_eq {n : Nat} {a b mask : BitVec n} (h : a &&& mask = b &&& mask) (k : Nat)
    (hmask : mask.getLsbD k = true) : a.getLsbD k = b.getLsbD k := by
  have hbit := congrArg (BitVec.getLsbD · k) h
  simpa only [BitVec.getLsbD_and, hmask, Bool.and_true] using hbit

/-- `FLAGS.BP` is bit 80 of the word (R64, R66). -/
theorem flagBp_reqFlags (q : RequestWord) : flagBp (reqFlags q) = q.getLsbD 80 := by simp [flagBp, reqFlags]

/-- `FLAGS.CP` is bit 81 of the word (R64, R66). -/
theorem flagCp_reqFlags (q : RequestWord) : flagCp (reqFlags q) = q.getLsbD 81 := by simp [flagCp, reqFlags]

/-- `FLAGS.RF` is bit 82 of the word (R64, R66). -/
theorem flagRf_reqFlags (q : RequestWord) : flagRf (reqFlags q) = q.getLsbD 82 := by simp [flagRf, reqFlags]

/-- The opcode is among the bits every operation uses (R65). -/
theorem reqOp_usedBits (op : Byte) : reqOp (Spec.usedBits op) = BitVec.allOnes 8 := by
  unfold Spec.usedBits
  split_ifs <;> rfl

/-- The bits an operation uses hold all its operands (R65, R69). -/
theorem Instr.withOperandsOf_eq (h : q &&& Spec.usedBits (opcode i) = q' &&& Spec.usedBits (opcode i)) :
    i.withOperandsOf q = i.withOperandsOf q' := by
  cases i with
  | bind =>
    change q &&& Spec.usedBits 0x01 = q' &&& Spec.usedBits 0x01 at h
    exact congrArg Instr.bind (extractLsb'_eq_of_and_eq h 72 8 (by decide))
  | forceTemperature =>
    change q &&& Spec.usedBits 0x09 = q' &&& Spec.usedBits 0x09 at h
    exact congrArg Instr.forceTemperature (extractLsb'_eq_of_and_eq h 72 8 (by decide))
  | clear =>
    change q &&& Spec.usedBits 0x04 = q' &&& Spec.usedBits 0x04 at h
    have hrf : q.getLsbD 82 = q'.getLsbD 82 := getLsbD_eq_of_and_eq h 82 (by decide)
    simp only [withOperandsOf, flagRf_reqFlags, hrf]
  | writeImage =>
    change q &&& Spec.usedBits 0x05 = q' &&& Spec.usedBits 0x05 at h
    have hbp : q.getLsbD 80 = q'.getLsbD 80 := getLsbD_eq_of_and_eq h 80 (by decide)
    have hcp : q.getLsbD 81 = q'.getLsbD 81 := getLsbD_eq_of_and_eq h 81 (by decide)
    have hx : reqX q = reqX q' := extractLsb'_eq_of_and_eq h 48 16 (by decide)
    have hy : reqY q = reqY q' := extractLsb'_eq_of_and_eq h 32 16 (by decide)
    have hw : reqW q = reqW q' := extractLsb'_eq_of_and_eq h 16 16 (by decide)
    have hh : reqH q = reqH q' := extractLsb'_eq_of_and_eq h 0 16 (by decide)
    simp only [withOperandsOf, flagBp_reqFlags, flagCp_reqFlags, hbp, hcp, hx, hy, hw, hh]
  | init | initFast | refresh | sleep | readTemperature | getActiveModel | lutDump | ramStream => rfl

end Sys2Proof

namespace Sys2Proof.Proofs

/-- Settles O1: the encoder puts the opcode and every operand into the fields the decoder reads. -/
theorem decodeAfterEncode : Obligations.DecodeAfterEncode := fun i => by
  rw [decode_of_reqOp_eq (reqOp_encode i), i.withOperandsOf_encode]

/-- Settles O2: the opcodes of the operations are 1 to 12. -/
theorem decodeTotalByOpcode : Obligations.DecodeTotalByOpcode := by
  refine fun q => ⟨fun hop => ?_, decode_unassigned⟩
  obtain ⟨i, hi⟩ := (decode_assigned_iff q).2 hop
  exact ⟨i, hi, (reqOp_of_decode hi).symm⟩

/-- Settles O3: the bits used hold the opcode and, where the opcode is an operation's, its operands. -/
theorem decodeIgnoresUnusedBits : Obligations.DecodeIgnoresUnusedBits := by
  intro q q' h
  have hop : reqOp q = reqOp q' := extractLsb'_eq_of_and_eq h 88 8 (reqOp_usedBits _)
  by_cases hassigned : 1 ≤ (reqOp q).toNat ∧ (reqOp q).toNat ≤ 12
  · obtain ⟨i, hi⟩ := (decode_assigned_iff q).2 hassigned
    have hiop : reqOp q = opcode i := reqOp_of_decode hi
    have hused : q &&& Spec.usedBits (opcode i) = q' &&& Spec.usedBits (opcode i) := hiop ▸ h
    rw [decode_of_reqOp_eq hiop, decode_of_reqOp_eq (hop ▸ hiop), Instr.withOperandsOf_eq hused]
  · rw [decode_unassigned hassigned, decode_unassigned (hop ▸ hassigned), hop]

/-- Settles O4: the decoder evaluated on each word. -/
theorem decodeWrittenOutWords : Obligations.DecodeWrittenOutWords :=
  ⟨rfl, rfl, rfl, rfl, rfl, rfl, rfl, rfl⟩

end Sys2Proof.Proofs
end

section
/-! The response word (R70, R71) and the port on an unassigned opcode (R79, R154). -/

namespace Sys2Proof.Machine

variable (r : Response)

/-! ### Each field of the response word -/

theorem Response.word_result : r.word.extractLsb' 9 2 = r.result.code := by
  rw [Response.word, BitVec.extractLsb'_append_eq_of_le (by decide), BitVec.extractLsb'_append_eq_of_le (by decide)]
  exact BitVec.extractLsb'_eq_self

theorem Response.word_rvalid : r.word.getLsbD 8 = r.rvalid := by
  rw [Response.word, BitVec.getLsbD_append, BitVec.getLsbD_append]
  simp

theorem Response.word_rval : r.word.extractLsb' 0 8 = r.rval := BitVec.extractLsb'_append_eq_right

/-- The model's codes are those of R71. -/
theorem code_eq_resultCode (c : ResultCode) : c.code = Spec.resultCode c := by cases c <;> rfl

/-- Whatever way an operation completes, the word it presents is that of the response latches it leaves (R70, R168). -/
theorem Completes.responses {s t : State} {i : Instr} (h : Completes s i t) : t.responses = s.responses ++ [t.rsp] := by
  cases h with
  | error | binds | emits | writesImage | readsTemperature | answersModel => rfl

/-- Between operations and under a well-formed `CFG` the request port answers an unassigned opcode with an error. -/
theorem presentRequest_unassigned {s : State} {q : RequestWord} {op : Byte} (hcfg : cfgOk s.cfg = true)
    (hbusy : s.busy = false) (hq : decode q = .unassigned op) : presentRequest q s = unassignedOpcode (s.accept q) := by
  simp [presentRequest, hcfg, hbusy, runRequest, hq]

end Sys2Proof.Machine

namespace Sys2Proof.Proofs

open Sys2Proof.Machine

/-- Settles O7: every completion presents the word of its latches, and each latch stands in its field. -/
theorem responsePresented : Obligations.ResponsePresented := fun _ _ t e =>
  ⟨(exec_completes e).responses, t.response.word_result.trans (code_eq_resultCode _), t.response.word_rvalid,
    t.response.word_rval⟩

/-- Settles O9: the step serves the request, and the port accepts the word and raises the error. -/
theorem unassignedOpcodeAnswersUnsupported : Obligations.UnassignedOpcodeAnswersUnsupported := by
  intro s q rest op hhost hcfg hbusy hq
  rw [step_eq_serve hhost]
  exact presentRequest_unassigned hcfg hbusy hq

end Sys2Proof.Proofs
end

section
/-! `BIND` beside `INIT` (R85 b, R116, R147). -/

namespace Sys2Proof.Machine

open Sys2Proof.Spec

variable {s : State} {m : Model} {d : Driver}

theorem legalInit_of_initCell (hl : InitCell s) : legalInit s.cfg s.lifecycle = true := by
  rcases hl with hl | hl | ⟨hl, hwake⟩
  · rw [hl]; rfl
  · rw [hl]; rfl
  · rw [hl]; exact hwake

/-- `INIT` on a bound block in a legal state (R116). -/
theorem execInit_of_bound (hb : Bound s m d) (hl : InitCell s) :
    execInit s = .next ((s.after m d (initEvents d (initTable d m)) .init 0).finish ⟨.ok, false, 0⟩) := by
  rw [execInit, withModel_of_bound hb, legalInit_of_initCell hl, State.initBody_eq]
  rfl

end Sys2Proof.Machine

namespace Sys2Proof.Proofs

open Sys2Proof.Machine Sys2Proof.Spec

/-- Settles O45: past its lookups `BIND` runs the body of `INIT` on the model and driver it found, which are the active
ones of the state `INIT` starts from. -/
theorem bindEmitsWhatInitWould : Obligations.BindEmitsWhatInitWould := by
  intro s t id hunbound e hok
  rcases execBind_next e with ⟨_, rfl⟩ | ⟨_, _, rfl⟩ | ⟨_, m, d, hm, hd, rfl⟩
  · exact absurd hok nofun
  · exact absurd hok nofun
  · have hb : Bound { s with activeId := id, bound := true, lifecycle := .init } m d :=
      ⟨rfl, findModelDriver_eq_some.2 ⟨hm, hd⟩⟩
    exact ⟨_, execInit_of_bound hb (.inl rfl), rfl, rfl, rfl⟩

end Sys2Proof.Proofs
end

section
/-! The bytes of `SET_WINDOW` of the counter style (R75, R94). -/

namespace Sys2Proof.Machine

/-- The end byte-column of the counter style, under either end convention (R94). -/
theorem counterEndCol_eq (inclusive : Bool) (x w : Nat) :
    counterEndCol inclusive x w = (x + w - 1) / 8 + (if inclusive then 0 else 1) := by
  cases inclusive <;> rfl

/-- A coordinate that fits 16 bits is the value of its two bytes, the low one first (R75). -/
theorem lo_add_hi {v : Nat} (h : v < 65536) : (lo v).toNat + (hi v).toNat * 256 = v :=
  (Nat.add_comm _ _).trans (ofHiLo_hi_lo v h)

end Sys2Proof.Machine

namespace Sys2Proof.Proofs

open Sys2Proof.Machine

/-- Settles O50: each coordinate is sent as the byte or bytes of its format, and an end byte-column as itself where it
fits. -/
theorem counterStyleEncoding : Obligations.CounterStyleEncoding := by
  intro d x y w h hs hw hh hx hy hfits
  have hlast : (x + w - 1) / 8 < 256 := hfits hs
  have hfirst : x / 8 ≤ (x + w - 1) / 8 := Nat.div_le_div_right (by omega)
  have hxsb : (indexByte (x / 8)).toNat = x / 8 := indexByte_toNat _ (by omega)
  have hrow : y < 65536 := by split at hy <;> omega
  have hend : counterEndRow d.endInclusive y h < 65536 := by
    unfold counterEndRow
    split_ifs at hy ⊢ <;> omega
  refine ⟨indexByte (x / 8), endByte (x / 8) (counterEndCol d.endInclusive x w), lo y, hi y,
    lo (counterEndRow d.endInclusive y h), hi (counterEndRow d.endInclusive y h), ?_, hxsb, ?_, ?_, lo_add_hi hrow,
    lo_add_hi hend⟩
  · rw [setWindow, hs]
    rfl
  · rw [← counterEndCol_eq]
    exact endByte_toNat _ _
  · rw [← counterEndCol_eq, hxsb]
    exact fun hout => endByte_le _ _ (not_lt.1 hout)

end Sys2Proof.Proofs
end

section
/-! `WRITE_IMAGE` on a bound block in a legal state, whole state: inside the panel and outside it (R133, R134). -/

namespace Sys2Proof.Machine

open Sys2Proof.Spec

variable {s : State} {m : Model} {d : Driver} {bp cp : Bool} {x y w h : Half}

/-- An operation that ran left the state the statements name. -/
theorem State.finish_after_eq_ended (es : List Event) (l : Lifecycle) (k : Nat) (r : Response) :
    (s.after m d es l k).finish r = ended m d es l k r s := rfl

/-- An operation that only answered left the state the statements name (R164). -/
theorem State.finish_eq_answered (r : Response) : s.finish r = answered r s := rfl

/-- The two bits of a `BoundsError`'s sub-cause, as a sum (R159). -/
theorem subBounds_eq (colOk rowOk : Bool) :
    subBounds colOk rowOk = BitVec.ofNat 8 ((if colOk then 0 else 1) + (if rowOk then 0 else 2)) := by
  cases colOk <;> cases rowOk <;> rfl

/-- The bounds check does not read the buffers: a rectangle that fails it ends with its sub-cause (R134). -/
theorem writeAligned_of_out {xa y wa h : Nat} (hout : ¬(xa + wa ≤ m.width ∧ y + h ≤ m.height)) :
    writeAligned m d bp cp xa y wa h s =
      .next (s.finish ⟨.boundsError, false, subBounds (decide (xa + wa ≤ m.width)) (decide (y + h ≤ m.height))⟩) :=
  if_neg (by simpa [bounds] using hout)

/-- A bound block in a legal state takes a rectangle that is not empty to the bounds check (R111, R166). -/
theorem execWriteImage_of_bound (hb : Bound s m d) (hl : ImageCell s) (hw : w ≠ 0) (hh : h ≠ 0) :
    execWriteImage bp cp x y w h s = writeAligned m d bp cp (alignedX x) y.toNat (alignedW w) h.toNat s := by
  rw [execWriteImage, withModel_of_bound hb, legalImage_of_imageCell hl, ifLegal, if_pos rfl, if_neg (by tauto)]
  rfl

end Sys2Proof.Machine

namespace Sys2Proof.Proofs

open Sys2Proof.Machine Sys2Proof.Spec

/-- Settles O32: the checks pass, so the operation runs on the state whose working registers hold the aligned values. -/
theorem writeImageSendsWindowAndStream : Obligations.WriteImageSendsWindowAndStream := by
  intro s m d bp cp x y w h hb hl hw hh hin hblk hcol
  exact (execWriteImage_of_inside hb hl hw hh hin hblk hcol).trans (congrArg _ (State.finish_after_eq_ended ..))

/-- Settles O33: the checks before the bounds check pass, and the bounds check fails. -/
theorem writeImageOutOfBoundsRejected : Obligations.WriteImageOutOfBoundsRejected := by
  intro s m d bp cp x y w h hb hl hw hh hout
  refine (execWriteImage_of_bound hb hl hw hh).trans ?_
  rw [writeAligned_of_out hout, State.finish_eq_answered, subBounds_eq]
  simp only [decide_eq_true_eq]

end Sys2Proof.Proofs
end

section
/-! The bytes of `SET_WINDOW` of the window style (R74, R92). -/

namespace Sys2Proof.Machine

/-- Setting the low three bits of a 16-bit column gives a 16-bit column. -/
theorem or_seven_lt {v : Nat} (hv : v < 65536) : v ||| 7 < 65536 := Nat.or_lt_two_pow (n := 16) hv (by decide)

end Sys2Proof.Machine

namespace Sys2Proof.Proofs

open Sys2Proof.Machine

/-- Settles O49: every coordinate fits 16 bits, so its two bytes are read back as the coordinate. -/
theorem windowStyleEncoding : Obligations.WindowStyleEncoding := by
  intro d x y w h hs hw hh hx hy
  have hlast : ofHiLo (hi ((x + w - 1) ||| 7)) (lo ((x + w - 1) ||| 7)) = ((x + w - 1) ||| 7) :=
    ofHiLo_hi_lo _ (or_seven_lt (by omega))
  refine ⟨hi (x - x % 8), lo (x - x % 8), hi ((x + w - 1) ||| 7), lo ((x + w - 1) ||| 7), hi y, lo y, hi (y + h - 1),
    lo (y + h - 1), ?_, ofHiLo_hi_lo _ (by omega), hlast, ?_, ?_, ofHiLo_hi_lo _ (by omega), ofHiLo_hi_lo _ (by omega)⟩
  · rw [setWindow, hs]
    rfl
  · refine (congrArg (· % 8) (hlast.trans (or_seven _))).trans ?_
    omega
  · exact (congrArg (· / 8) hlast).trans (lastCol_eq x w)

end Sys2Proof.Proofs
end

section
/-! `ALIGN` (R87, R90). -/

namespace Sys2Proof.Machine

/-- A rectangle on byte boundaries is its own aligned rectangle (R90). -/
theorem align_of_mod {x w : Nat} (hx : x % 8 = 0) (hw : w % 8 = 0) : align x w = (x, w) :=
  Prod.ext (by simp [align, hx]) (ceil8_of_mod w hw)

/-- The aligned rectangle starts at most seven columns before the requested one (R87). -/
theorem align_fst_bounds (x w : Nat) : (align x w).1 ≤ x ∧ x - (align x w).1 ≤ 7 := by
  simp only [align]
  omega

/-- The aligned rectangle reaches the requested end exactly when the width it gains covers the columns it starts
before (R87). -/
theorem end_le_align_iff (x w : Nat) : x + w ≤ (align x w).1 + (align x w).2 ↔ x % 8 + w ≤ (align x w).2 := by
  simp only [align]
  omega

/-- On a panel of whole byte-columns alignment keeps a rectangle inside: its end grows by at most seven, to a multiple of
8 (R90). -/
theorem align_end_le {x w width : Nat} (hwidth : width % 8 = 0) (hin : x + w ≤ width) :
    (align x w).1 + (align x w).2 ≤ width := by
  obtain ⟨hxa, hwa⟩ := align_mod x w
  have hx : (align x w).1 ≤ x := (align_fst_bounds x w).1
  have hw : (align x w).2 ≤ w + 7 := (ceil8_bounds w).2
  omega

end Sys2Proof.Machine

namespace Sys2Proof.Proofs

open Sys2Proof.Machine

/-- Settles O46: the outputs are R87's by definition, the bounds those of its two roundings, and the example computes. -/
theorem alignmentRule : Obligations.AlignmentRule := by
  refine ⟨fun x w => ?_, by decide⟩
  obtain ⟨hxa, hwa⟩ := align_mod x w
  obtain ⟨hle, hnear⟩ := align_fst_bounds x w
  obtain ⟨hlo, hhi⟩ := ceil8_bounds w
  exact ⟨rfl, rfl, hxa, hwa, hle, hnear, hlo, hhi, end_le_align_iff x w⟩

/-- Settles O47: what `ALIGN` gives is on byte boundaries, and the examples compute. -/
theorem alignmentProperties : Obligations.AlignmentProperties := by
  refine ⟨fun x w => ?_, fun m x w => align_end_le, by decide, by decide⟩
  obtain ⟨hxa, hwa⟩ := align_mod x w
  exact align_of_mod hxa hwa

end Sys2Proof.Proofs
end

section
/-! `PLANE_BYTES` of a buffer loaded from a list of bytes (R100), and the refusals of `WRITE_IMAGE` (R133, R166, R99). -/

namespace Sys2Proof.Machine

open Sys2Proof.Spec

/-- A loaded buffer that is long enough reads back, from its start, as the bytes loaded. -/
theorem readBytes_ofBytes_range {bs : List Byte} {n : Nat} (hn : n ≤ bs.length) :
    readBytes (Memory.ofBytes bs) (List.range n) = some (bs.take n) := by
  refine (readBytes_eq_some _ _ _).2 (List.ext_getElem (by simp [hn]) fun i hi _ => ?_)
  have hlt : i < bs.length := (by simpa using hi : i < n).trans_le hn
  simp [hlt]

/-- An absent plane is its filler, whatever the buffer holds (R100). -/
theorem planeBytes_absent (buf : Memory) (filler : Byte) (stride h : Nat) :
    planeBytes buf false filler stride h = some (List.replicate (stride * h) filler) := by
  rw [planeBytes, planeIndices_eq_range]
  simp [planeRun]

variable {s : State} {m : Model} {d : Driver} {bp cp : Bool} {x y w h : Half}

/-- The operand precondition comes before the bounds check (R133, R166). -/
theorem execWriteImage_of_zero (hb : Bound s m d) (hl : ImageCell s) (hzero : w = 0 ∨ h = 0) :
    execWriteImage bp cp x y w h s = .refused .zeroExtent := by
  rw [execWriteImage, withModel_of_bound hb, legalImage_of_imageCell hl, ifLegal, if_pos rfl, if_pos hzero]

/-- A rectangle inside the panel reaches the buffer check, on the state whose working registers hold the aligned values
(R133). -/
theorem writeAligned_of_in {xa y wa h : Nat} (hcols : xa + wa ≤ m.width) (hrows : y + h ≤ m.height) :
    writeAligned m d bp cp xa y wa h s = writeRect m d bp cp xa y wa h (s.setAligned xa wa) :=
  if_pos (by simp [bounds, hcols, hrows])

/-- The buffer check does not ask which planes the strategy streams: every buffer marked present must hold the rectangle
(R99, U5; log 11). -/
theorem writeRect_of_short {xa y wa h : Nat}
    (hshort : ¬(Holds s.blk bp (wa / 8 * h) ∧ Holds s.col cp (wa / 8 * h))) :
    writeRect m d bp cp xa y wa h s = .refused .shortBuffer :=
  if_neg (mt buffersHold_iff.1 hshort)

end Sys2Proof.Machine

namespace Sys2Proof.Proofs

open Sys2Proof.Machine Sys2Proof.Spec

/-- Settles O51: the indices visited are `0 .. n - 1` in order. -/
theorem planeBytesInOrder : Obligations.PlaneBytesInOrder := by
  intro bs filler stride h
  refine ⟨fun hn => ?_, fun buf => planeBytes_absent buf filler stride h⟩
  rw [planeBytes, planeIndices_eq_range, planeRun, if_pos rfl, readBytes_ofBytes_range hn]

/-- Settles O34: the checks come in the order extent, bounds, buffers, and alignment does not touch the buffers. -/
theorem writeImageRefusals : Obligations.WriteImageRefusals := by
  intro s m d bp cp x y w h hb hl
  refine ⟨execWriteImage_of_zero hb hl, fun hw hh ⟨hcols, hrows⟩ hshort => ?_⟩
  calc execWriteImage bp cp x y w h s
    _ = writeAligned m d bp cp (alignedX x) y.toNat (alignedW w) h.toNat s := execWriteImage_of_bound hb hl hw hh
    _ = writeRect m d bp cp (alignedX x) y.toNat (alignedW w) h.toNat (s.setAligned (alignedX x) (alignedW w)) :=
      writeAligned_of_in hcols hrows
    _ = .refused .shortBuffer := writeRect_of_short hshort

end Sys2Proof.Proofs
end

section
/-! The whole state after `BIND`, `INIT`, `INIT_FAST`, `REFRESH` and `SLEEP` where they run (R113 to R124, R147), and
after `INIT_FAST` where the driver lacks it (R119). -/

namespace Sys2Proof.Machine

open Sys2Proof.Spec

variable {s : State} {m : Model} {d : Driver} {id : Byte}

/-! ### The event lists are those of the spec's pseudocode -/

theorem initEvents_eq_initSeq (d : Driver) (ws : List InitWrite) : initEvents d ws = initSeq d ws := rfl

theorem optionalWrite_eq_optWrite (p : Option (Byte × Byte)) : optionalWrite p = optWrite p := by
  cases p <;> rfl

theorem tempReadEvents_eq_tempRead (d : Driver) (b : Byte) : tempReadEvents d b = tempRead d b := by
  simp [tempReadEvents, senseEvents, tempRead, optionalWrite_eq_optWrite]

theorem refreshEvents_eq_refreshSeq (d : Driver) (m : Model) (b : Byte) :
    refreshEvents d m b = refreshSeq d m b := by
  rw [refreshEvents, refreshReadEvents, tempReadEvents_eq_tempRead]
  rfl

/-! ### R112's rows are the cells the statements name -/

theorem legalInit_iff : legalInit s.cfg s.lifecycle = true ↔ InitCell s := by
  unfold InitCell
  cases s.lifecycle <;> simp [legalInit]

theorem legalImage_iff : legalImage s.lifecycle = true ↔ ImageCell s := by
  unfold ImageCell
  cases s.lifecycle <;> simp [legalImage]

theorem legalSleep_iff : legalSleep s.lifecycle = true ↔ SleepCell s := by
  unfold SleepCell
  cases s.lifecycle <;> simp [legalSleep]

theorem legalTemp_iff : legalTemp s.cfg s.lifecycle = true ↔ TempCell s := by
  unfold TempCell
  cases s.lifecycle <;> simp [legalTemp]

/-! ### The operations -/

/-- `BIND` of an id whose model and driver the lookups find, on an unbound block (R147). -/
theorem execBind_of_found (hunbound : s.bound = false) (hfind : findModelDriver s.cfg id = some (m, d)) :
    execBind id s =
      .next (((s.bindTo id).after m d (initEvents d (initTable d m)) .init 0).finish ⟨.ok, false, 0⟩) := by
  obtain ⟨hm, hd⟩ := findModelDriver_eq_some.1 hfind
  simp [execBind, bindLookup, hunbound, hm, hd, State.initBody_eq]

/-- `INIT_FAST` on a bound block in a legal state, where the driver has it (R118). -/
theorem execInitFast_of_bound (hb : Bound s m d) (hfast : d.hasInitFast = true) (hl : InitCell s) :
    execInitFast s =
      .next ((s.after m d (initEvents d (initFastTable d m) ++ ponEvents d ++ pofEvents d) .poff 0).finish
        ⟨.ok, false, 0⟩) := by
  rw [execInitFast, withModel_of_bound hb, hfast, legalInit_of_initCell hl, State.initFastBody_eq]
  rfl

/-- The capability check comes before the lifecycle check (R119). -/
theorem execInitFast_of_absent (hb : Bound s m d) (hfast : d.hasInitFast = false) :
    execInitFast s = .next (s.finish ⟨.unsupportedOperation, false, subCapabilityAbsent⟩) := by
  rw [execInitFast, withModel_of_bound hb, hfast]
  rfl

/-- `SLEEP` on a bound block in a legal state (R124). -/
theorem execSleep_of_bound (hb : Bound s m d) (hl : SleepCell s) :
    execSleep s = .next ((s.after m d (sleepEvents d s.lifecycle) .sleep 0).finish ⟨.ok, false, 0⟩) := by
  rw [execSleep, withModel_of_bound hb, legalSleep_iff.2 hl, State.sleepBody_eq]
  rfl

end Sys2Proof.Machine

namespace Sys2Proof.Proofs

open Sys2Proof.Machine

/-- Settles O16: both lookups succeed, and the body of `INIT` runs on the state with the model bound. -/
theorem bindBindsAndInitialises : Obligations.BindBindsAndInitialises := by
  intro s id m d hunbound hfind
  rw [← initEvents_eq_initSeq, ← State.finish_after_eq_ended]
  exact execBind_of_found hunbound hfind

/-- Settles O21: the checks pass, and the body emits the pulse and the table. -/
theorem initRunsItsTable : Obligations.InitRunsItsTable := by
  intro s m d hb hl
  rw [← initEvents_eq_initSeq, ← State.finish_after_eq_ended]
  exact execInit_of_bound hb hl

/-- Settles O22: the checks pass, and the body ends with one power bracket. -/
theorem initFastRunsItsTableAndBracket : Obligations.InitFastRunsItsTableAndBracket := by
  intro s m d hb hfast hl
  rw [← initEvents_eq_initSeq, ← State.finish_after_eq_ended]
  exact execInitFast_of_bound hb hfast hl

/-- Settles O23: the capability check fails before the lifecycle is looked at. -/
theorem initFastAbsentAnswersUnsupported : Obligations.InitFastAbsentAnswersUnsupported := by
  intro s m d hb hfast
  rw [← State.finish_eq_answered]
  exact execInitFast_of_absent hb hfast

/-- Settles O25: the checks pass, and the body emits the bracket with what the driver's two flags ask. -/
theorem refreshRunsItsBracket : Obligations.RefreshRunsItsBracket := by
  intro s m d hb hl
  rw [← refreshEvents_eq_refreshSeq, ← State.finish_after_eq_ended]
  exact execRefresh_of_bound hb hl

/-- Settles O26: the checks pass, and the body powers off first where the lifecycle is `PON`. -/
theorem sleepSendsDeepSleep : Obligations.SleepSendsDeepSleep := by
  intro s m d hb hl
  rw [← State.finish_after_eq_ended]
  exact execSleep_of_bound hb hl

end Sys2Proof.Proofs
end

section
/-! The refuse cells of the legality table (R112), and `SLEEP` as a terminal state (R193). -/

namespace Sys2Proof.Machine

open Sys2Proof.Spec

variable {s : State} {i : Instr} {m : Model} {d : Driver} {ok : Bool}

/-! ### Refused -/

/-- A bound block does not run a lifecycle-gated operation in a refuse cell, whatever the operation would do (R112). -/
theorem gated_refused_of_illegal (hb : Bound s m d) (hok : ok ≠ true) (k : Model → Driver → Outcome) :
    withModel s (fun m d => ifLegal ok (k m d)) = .refused .lifecycleCell := by
  rw [withModel_of_bound hb, ifLegal, if_neg hok]

theorem execInitFast_of_illegal (hb : Bound s m d) (hl : ¬InitCell s) (hfast : d.hasInitFast = true) :
    execInitFast s = .refused .lifecycleCell := by
  rw [execInitFast, withModel_of_bound hb, hfast, ifCapable, if_pos rfl, ifLegal, if_neg (mt legalInit_iff.1 hl)]

/-! ### What a bound block answers without an event -/

/-- `BIND` on a bound block, whatever the id (R149). -/
theorem execBind_of_bound (id : Byte) (hb : s.bound = true) :
    execBind id s = .next (s.finish ⟨.configurationError, false, subAlreadyBound⟩) := if_pos hb

/-- The operation is refused, or answered without an event and with the lifecycle as it was. -/
def Inert (i : Instr) (s : State) : Prop :=
  exec i s = .refused .lifecycleCell ∨ ∃ t, exec i s = .next t ∧ t.lifecycle = s.lifecycle ∧ t.log = s.log

theorem inert_of_finish {r : Response} (e : exec i s = .next (s.finish r)) : Inert i s := .inr ⟨_, e, rfl, rfl⟩

end Sys2Proof.Machine

namespace Sys2Proof.Proofs

open Sys2Proof.Machine Sys2Proof.Spec

/-- Settles O35: each gated operation is the lifecycle check of its row before anything else it does. -/
theorem refuseCells : Obligations.RefuseCells := by
  intro s m d hb
  refine ⟨fun hl => ?_, fun hl hfast => ?_, fun hl => ⟨?_, fun rf => ?_, fun bp cp x y w h => ?_⟩, fun hl => ?_,
    fun hl => ⟨?_, fun v => ?_⟩⟩
  · exact gated_refused_of_illegal hb (mt legalInit_iff.1 hl) _
  · exact execInitFast_of_illegal hb hl hfast
  · exact gated_refused_of_illegal hb (mt legalImage_iff.1 hl) _
  · exact gated_refused_of_illegal hb (mt legalImage_iff.1 hl) _
  · exact gated_refused_of_illegal hb (mt legalImage_iff.1 hl) _
  · exact gated_refused_of_illegal hb (mt legalSleep_iff.1 hl) _
  · exact gated_refused_of_illegal hb (mt legalTemp_iff.1 hl) _
  · exact gated_refused_of_illegal hb (mt legalTemp_iff.1 hl) _

/-- In `SLEEP` without `WAKE_BY_INIT` every operation is inert: the gated ones meet a refuse cell, and the others (and
`INIT_FAST` without the capability) only answer. -/
theorem inert_of_sleep {s : State} {m : Model} {d : Driver} (hb : Bound s m d) (hsleep : s.lifecycle = .sleep)
    (hwake : s.cfg.wakeByInit = false) (i : Instr) : Inert i s := by
  obtain ⟨hinit, hinitFast, himage, hsleepCell, htemp⟩ := refuseCells s m d hb
  have hnoInit : ¬InitCell s := by simp [InitCell, hsleep, hwake]
  obtain ⟨hrefresh, hclear, hwrite⟩ := himage (by simp [ImageCell, hsleep])
  obtain ⟨hread, hforce⟩ := htemp (by simp [TempCell, hsleep])
  cases i with
  | bind id => exact inert_of_finish (execBind_of_bound id hb.1)
  | init => exact .inl (hinit hnoInit)
  | initFast =>
    cases hfast : d.hasInitFast with
    | true => exact .inl (hinitFast hnoInit hfast)
    | false => exact inert_of_finish (execInitFast_of_absent hb hfast)
  | clear rf => exact .inl (hclear rf)
  | writeImage bp cp x y w h => exact .inl (hwrite bp cp x y w h)
  | refresh => exact .inl hrefresh
  | sleep => exact .inl (hsleepCell (by simp [SleepCell, hsleep]))
  | readTemperature => exact .inl hread
  | forceTemperature v => exact .inl (hforce v)
  | getActiveModel => exact inert_of_finish (execGetActiveModel_eq s)
  | lutDump => exact inert_of_finish (execLutDump_eq s)
  | ramStream => exact inert_of_finish (execRamStream_eq s)

/-- Settles O43: every operation is inert there, so the lifecycle stays `SLEEP`. -/
theorem sleepIsTerminal : Obligations.SleepIsTerminal := by
  intro i s m d hb hsleep hwake
  rw [← hsleep]
  exact inert_of_sleep hb hsleep hwake i

end Sys2Proof.Proofs
end

section
/-! Why an operation can be refused, said once for the whole dispatch (R112, R133, R165, R178). -/

namespace Sys2Proof.Machine

variable {s : State} {i : Instr} {r : Refusal} {cfg : Cfg} {m : Model} {d : Driver}

/-- The refusals an operation can end in, with what each says of the state. -/
inductive Stops (s : State) : Instr → Refusal → Prop
  /-- `BIND` of a catalog model whose driver `CFG` does not hold (log 10). -/
  | driverMissing {id : Byte} {m : Model} (hb : s.bound = false) (hm : findModel s.cfg id = some m)
      (hd : findDriver s.cfg m.driver = none) : Stops s (.bind id) .noActiveModel
  /-- A bound model that `CFG` does not hold (log 10). -/
  | modelMissing {i : Instr} (hb : s.bound = true) (ha : s.active = none) : Stops s i .noActiveModel
  /-- A refuse cell of R112. -/
  | cell {i : Instr} (hb : s.bound = true) : Stops s i .lifecycleCell
  /-- `WRITE_IMAGE` of an empty rectangle (R133). -/
  | zeroExtent {bp cp : Bool} {x y w h : Half} (hb : s.bound = true) : Stops s (.writeImage bp cp x y w h) .zeroExtent
  /-- `WRITE_IMAGE` with a short buffer (R99, U5). -/
  | shortBuffer {bp cp : Bool} {x y w h : Half} (hb : s.bound = true) : Stops s (.writeImage bp cp x y w h) .shortBuffer

/-! ### Every refusal is one of these -/

/-- The bound check and the lookup of the active model refuse where the model is missing, and nowhere else. -/
theorem stops_of_withModel {k : Model → Driver → Outcome} (e : withModel s k = .refused r)
    (hk : ∀ m d, s.bound = true → k m d = .refused r → Stops s i r) : Stops s i r := by
  unfold withModel ifBound at e
  cases hb : s.bound with
  | false => simp [hb] at e
  | true =>
    cases ha : s.active with
    | none =>
      simp only [hb, ha, if_true, Host.Outcome.refused.injEq] at e
      exact e ▸ .modelMissing hb ha
    | some p => exact hk p.1 p.2 hb (by simpa [hb, ha] using e)

theorem stops_of_ifLegal {ok : Bool} {k : Outcome} (hb : s.bound = true) (e : ifLegal ok k = .refused r)
    (hk : k = .refused r → Stops s i r) : Stops s i r := by
  cases ok with
  | true => exact hk e
  | false =>
    cases e
    exact .cell hb

/-- An operation that runs once its model is known and its cell legal. -/
theorem stops_of_gated {ok : Bool} {t : Model → Driver → State}
    (e : withModel s (fun m d => ifLegal ok (.next (t m d))) = .refused r) : Stops s i r :=
  stops_of_withModel e fun _ _ hb e => stops_of_ifLegal hb e nofun

theorem execBind_stops {id : Byte} (e : execBind id s = .refused r) : Stops s (.bind id) r := by
  unfold execBind at e
  cases hb : s.bound with
  | true => simp [hb] at e
  | false =>
    simp only [hb, bindLookup, Bool.false_eq_true, if_false] at e
    cases hm : findModel s.cfg id with
    | none => simp [hm] at e
    | some m =>
      cases hd : findDriver s.cfg m.driver with
      | some d => simp [hm, hd] at e
      | none =>
        simp only [hm, hd, Host.Outcome.refused.injEq] at e
        exact e ▸ .driverMissing hb hm hd

theorem execInitFast_stops (e : execInitFast s = .refused r) : Stops s .initFast r := by
  refine stops_of_withModel e fun m d hb e => ?_
  cases hfast : d.hasInitFast with
  | true =>
    rw [hfast] at e
    exact stops_of_ifLegal hb e nofun
  | false => simp [hfast, ifCapable] at e

/-- Past its operand precondition `WRITE_IMAGE` is refused for a short buffer alone (R99, U5). -/
theorem writeAligned_refused {bp cp : Bool} {xa y wa h : Nat} (e : writeAligned m d bp cp xa y wa h s = .refused r) :
    r = .shortBuffer := by
  unfold writeAligned writeRect at e
  split at e
  · split at e
    · split at e
      · cases e
      · exact (Host.Outcome.refused.inj e).symm
    · exact (Host.Outcome.refused.inj e).symm
  · cases e

theorem execWriteImage_stops {bp cp : Bool} {x y w h : Half} (e : execWriteImage bp cp x y w h s = .refused r) :
    Stops s (.writeImage bp cp x y w h) r := by
  refine stops_of_withModel e fun m d hb e => stops_of_ifLegal hb e fun e => ?_
  split at e
  · cases e
    exact .zeroExtent hb
  · cases writeAligned_refused e
    exact .shortBuffer hb

/-- Whatever an operation is refused for, it is one of these reasons. -/
theorem exec_stops (e : exec i s = .refused r) : Stops s i r := by
  cases i with
  | bind id => exact execBind_stops e
  | init | clear | refresh | sleep | readTemperature | forceTemperature => exact stops_of_gated e
  | initFast => exact execInitFast_stops e
  | writeImage bp cp x y w h => exact execWriteImage_stops e
  | getActiveModel => cases (execGetActiveModel_eq s).symm.trans e
  | lutDump => cases (execLutDump_eq s).symm.trans e
  | ramStream => cases (execRamStream_eq s).symm.trans e

/-! ### What a refusal says -/

theorem Stops.of_active (h : Stops s i r) (hb : s.bound = true) (ha : s.active = some (m, d)) :
    r = .lifecycleCell ∨ ∃ bp cp x y w h, i = .writeImage bp cp x y w h ∧ (r = .zeroExtent ∨ r = .shortBuffer) := by
  cases h with
  | driverMissing hunbound => exact absurd (hb.symm.trans hunbound) nofun
  | modelMissing _ hnone => exact absurd (ha.symm.trans hnone) nofun
  | cell => exact .inl rfl
  | zeroExtent => exact .inr ⟨_, _, _, _, _, _, rfl, .inl rfl⟩
  | shortBuffer => exact .inr ⟨_, _, _, _, _, _, rfl, .inr rfl⟩

/-- Under a well-formed `CFG` the driver of a catalog model is found (R7, U11). -/
theorem findDriver_ne_none_of_findModel {id : Byte} (hcfg : cfgOk cfg = true) (hm : findModel cfg id = some m) :
    findDriver cfg m.driver ≠ none := by
  intro hd
  have hok : modelOk cfg m = true := cfgOk_modelOk hcfg ((findModel_eq_some_iff hcfg).1 hm).1
  simp [modelOk, hd] at hok

theorem Stops.cfgOk_of_unbound (h : Stops s i r) (hunbound : s.bound = false) : cfgOk s.cfg = false := by
  cases h with
  | driverMissing _ hm hd => exact Bool.eq_false_iff.2 fun hcfg => findDriver_ne_none_of_findModel hcfg hm hd
  | modelMissing hb | cell hb | zeroExtent hb | shortBuffer hb => exact absurd (hb.symm.trans hunbound) nofun

end Sys2Proof.Machine

namespace Sys2Proof.Proofs

open Sys2Proof.Machine

/-- Settles O36: of the reasons an operation can be refused for, a missing model contradicts a known one, and unbound only a
missing driver is left. -/
theorem nothingElseStops : Obligations.NothingElseStops :=
  fun _ _ _ e => ⟨fun hb _ _ => (exec_stops e).of_active hb, (exec_stops e).cfgOk_of_unbound⟩

end Sys2Proof.Proofs
end

section
/-! The lifecycle at the end of each operation (R126, R164). -/

namespace Sys2Proof.Machine

variable {s t : State} {i : Instr} {l : Lifecycle}

/-- An error leaves the lifecycle (R164). -/
theorem Completes.lifecycle_of_error (h : Completes s i t) (herror : t.response.result ≠ .ok) :
    t.lifecycle = s.lifecycle := by
  cases h with
  | error => rfl
  | binds | emits | writesImage | readsTemperature | answersModel => exact absurd rfl herror

/-- `BIND`, where it succeeds, ends in `INIT` (R147). -/
theorem Completes.lifecycle_of_bind {id : Byte} (h : Completes s (.bind id) t) (hok : t.response.result = .ok) :
    t.lifecycle = .init := by
  cases h with
  | error _ hr => exact absurd hok hr
  | binds => rfl
  | emits hi => exact hi.elim

/-- Besides `BIND` and the operations that only emit, none moves the lifecycle. -/
theorem Completes.lifecycle_of_keeps (h : Completes s i t) (hbind : ∀ id, i ≠ .bind id) (hi : ¬OnlyEmits i) :
    t.lifecycle = s.lifecycle := by
  cases h with
  | binds => exact absurd rfl (hbind _)
  | emits hemits => exact absurd hemits hi
  | error | writesImage | readsTemperature | answersModel => rfl

/-- An operation that needs a model and ends with `OK` has run, and left the lifecycle it leaves when it runs. -/
theorem lifecycle_of_gated {P : Model → Driver → Prop} (hok : t.response.result = .ok)
    (hnext : (s.bound = false ∧ Erred ⟨.configurationError, false, subNotBound⟩ s t) ∨
      (s.bound = true ∧ ∃ m d, s.active = some (m, d) ∧ P m d))
    (hrun : ∀ m d, P m d → t.lifecycle = l) : t.lifecycle = l := by
  rcases hnext with ⟨_, rfl⟩ | ⟨_, m, d, _, hp⟩
  · exact absurd hok nofun
  · exact hrun m d hp

theorem execInitFast_lifecycle (e : execInitFast s = .next t) (hok : t.response.result = .ok) :
    t.lifecycle = .poff := by
  rcases execInitFast_next e with ⟨_, rfl⟩ | ⟨_, _, _, _, _, rfl⟩ | ⟨_, _, _, _, _, _, rfl⟩
  · exact absurd hok nofun
  · exact absurd hok nofun
  · rfl

end Sys2Proof.Machine

namespace Sys2Proof.Proofs

open Sys2Proof.Machine

/-- Settles O37: an error is one completion, which moves nothing; the operations that move the lifecycle do so with the
events of their body. -/
theorem lifecycleAtTheEnd : Obligations.LifecycleAtTheEnd := by
  intro i s t e
  have hc := exec_completes e
  refine ⟨hc.lifecycle_of_error, fun hok => ?_⟩
  cases i with
  | bind id => exact hc.lifecycle_of_bind hok
  | init => exact lifecycle_of_gated hok (execInit_next e) fun _ _ ⟨_, ht⟩ => ht ▸ rfl
  | initFast => exact execInitFast_lifecycle e hok
  | clear rf =>
    cases rf with
    | false => exact lifecycle_of_gated hok (execClear_next e) fun _ _ ⟨_, ht⟩ => ht ▸ rfl
    | true => exact lifecycle_of_gated hok (execClear_next e) fun _ _ ⟨_, ht⟩ => ht ▸ rfl
  | refresh => exact lifecycle_of_gated hok (execRefresh_next e) fun _ _ ⟨_, ht⟩ => ht ▸ rfl
  | sleep => exact lifecycle_of_gated hok (execSleep_next e) fun _ _ ⟨_, ht⟩ => ht ▸ rfl
  | forceTemperature v => exact lifecycle_of_gated hok (execForceTemperature_next e) fun _ _ ⟨_, ht⟩ => ht ▸ rfl
  | writeImage | readTemperature | getActiveModel | lutDump | ramStream => exact hc.lifecycle_of_keeps nofun id

end Sys2Proof.Proofs
end

section
/-! `CLEAR` on a bound block, whole state (R129 to R131), and the state after an error (R164, R165). -/

namespace Sys2Proof.Machine

open Sys2Proof.Spec

variable {s t : State} {i : Instr} {m : Model} {d : Driver}

theorem clearEvents_eq_fills (d : Driver) (m : Model) : clearEvents d m = fills d m := by
  unfold clearEvents fills
  cases d.planeStrategy <;> rfl

/-- `CLEAR 1` on a bound block in a legal state: the fills, then the body of `REFRESH` (R129, R130). -/
theorem execClear_true_of_bound (hb : Bound s m d) (hl : ImageCell s) :
    execClear true s =
      .next ((s.after m d (clearEvents d m ++ refreshEvents d m s.nextAnswer) .poff (refreshDraws d)).finish
        ⟨.ok, false, 0⟩) := by
  rw [execClear, withModel_of_bound hb, legalImage_of_imageCell hl, State.clearBody_eq]
  rfl

/-- The fills of `CLEAR` are `FILL` events and nothing else (R131). -/
theorem eq_fill_of_mem_fills {e : Event} (he : e ∈ fills d m) : ∃ c b n, e = .fill c b n := by
  unfold fills at he
  cases hstrategy : d.planeStrategy with
  | single | doubleHeight =>
    rw [hstrategy, List.mem_singleton] at he
    exact ⟨_, _, _, he⟩
  | sequential =>
    rw [hstrategy, List.mem_pair] at he
    rcases he with he | he
    · exact ⟨_, _, _, he⟩
    · exact ⟨_, _, _, he⟩

/-- One operation that emits the events of two in turn leaves what the second leaves, but for the response that the
first presented (R131). -/
theorem ended_append (es fs : List Event) (l l' : Lifecycle) (k k' : Nat) (r r' : Response) :
    ended m d (es ++ fs) l' (k + k') r' s =
      { ended m d fs l' k' r' (ended m d es l k r s) with responses := s.responses ++ [r'.word] } := by
  simp [ended, Nat.add_assoc]

/-- An error answers, and nothing else happens (R164, R165). -/
theorem Completes.answered_of_error (h : Completes s i t) (herror : t.response.result ≠ .ok) :
    t = answered t.response s := by
  cases h with
  | error => rfl
  | binds | emits | writesImage | readsTemperature | answersModel => exact absurd rfl herror

end Sys2Proof.Machine

namespace Sys2Proof.Proofs

open Sys2Proof.Machine Sys2Proof.Spec

/-- Settles O24: the checks pass, and the body emits the fills, with `RF = 1` followed by the body of `REFRESH`. -/
theorem clearFillsThenMayRefresh : Obligations.ClearFillsThenMayRefresh := by
  intro s m d hb hl
  rw [← clearEvents_eq_fills, ← refreshEvents_eq_refreshSeq, ← State.finish_after_eq_ended,
    ← State.finish_after_eq_ended]
  exact ⟨execClear_false_of_bound hb hl, execClear_true_of_bound hb hl⟩

/-- Settles O38: an error is one completion, which only answers, and its response is well formed. -/
theorem errorsArePrecise : Obligations.ErrorsArePrecise := by
  intro i s t e herror
  have hc := exec_completes e
  exact ⟨hc.answered_of_error herror, Response.rvalid_of_error hc.response_wf herror⟩

/-- Settles O44: `CLEAR 0` leaves the block bound, in a legal state and with the same next answer, so the `REFRESH` after
it emits what `CLEAR 1` emits after the fills. -/
theorem clearWithRefreshIsClearThenRefresh : Obligations.ClearWithRefreshIsClearThenRefresh := by
  intro s m d hb hl
  obtain ⟨hclear, hboth⟩ := clearFillsThenMayRefresh s m d hb hl
  have hrefresh := refreshRunsItsBracket (ended m d (fills d m) s.lifecycle 0 okResponse s) m d hb hl
  rw [← Nat.zero_add (refreshDrawn d), ended_append (l := s.lifecycle) (r := okResponse)] at hboth
  exact ⟨_, _, _, hboth, hclear, hrefresh, rfl, rfl, rfl, rfl, rfl, rfl, rfl, _, rfl, fun _ => eq_fill_of_mem_fills⟩

end Sys2Proof.Proofs
end

section
/-! `READ_TEMPERATURE` and `FORCE_TEMPERATURE` on a bound block, whole state (R139 to R142), and the forced byte on the
receiver (R144). -/

namespace Sys2Proof.Machine

open Sys2Proof.Spec

variable {s : State} {m : Model} {d : Driver}

/-! ### The operations -/

theorem forceEvents_eq_optWrite (d : Driver) (v : Byte) :
    forceEvents d v = optWrite d.forcePreCascade ++ [.cmd d.cTforce, .data [v]] := by
  rw [forceEvents, optionalWrite_eq_optWrite]

/-- `READ_TEMPERATURE` on a bound block in a legal state (R140, R141). -/
theorem execReadTemperature_of_bound (hb : Bound s m d) (hl : TempCell s) :
    execReadTemperature s =
      .next ((s.after m d (tempReadEvents d s.nextAnswer) s.lifecycle 1).finish ⟨.ok, true, s.nextAnswer⟩) := by
  rw [execReadTemperature, withModel_of_bound hb, legalTemp_iff.2 hl, State.tempReadSeq_eq]
  rfl

/-- `FORCE_TEMPERATURE` on a bound block in a legal state (R142). -/
theorem execForceTemperature_of_bound (hb : Bound s m d) (hl : TempCell s) (v : Byte) :
    execForceTemperature v s =
      .next ((s.after m d (forceEvents d v) s.lifecycle 0).finish ⟨.ok, false, 0⟩) := by
  rw [execForceTemperature, withModel_of_bound hb, legalTemp_iff.2 hl, State.emitAll_eq_after]
  rfl

/-! ### The transport and the receiver -/

/-- The transport answers with the first byte listed (R58). -/
theorem State.nextAnswer_of_cons {b : Byte} {rest : List Byte} (h : s.answers = b :: rest) : s.nextAnswer = b := by
  rw [nextAnswer, h, List.headD_cons]

/-- The force command, where its code is neither a RAM nor an addressing command, leaves its last byte (R144). -/
theorem Receiver.takeArgs_cTforce (r : Receiver) (haddr : isAddressing d d.cTforce = false) (args : List Byte) :
    Receiver.takeArgs d r d.cTforce args = r.takeForced args := by
  rw [takeArgs_of_not_addressing d r haddr, if_pos rfl]

/-- After the events of `FORCE_TEMPERATURE v` the forced byte is `v`, whatever the write before the command was (R142,
R144). -/
theorem Receiver.forced_feedAll_forceEvents (r : Receiver) (hram : isRamCmd d m d.cTforce = false)
    (haddr : isAddressing d d.cTforce = false) (v : Byte) :
    (r.feedAll d m (forceEvents d v)).forced = some v := by
  rw [forceEvents, feedAll_append, feedAll_cmd_data d m _ hram, takeArgs_cTforce _ haddr]
  rfl

end Sys2Proof.Machine

namespace Sys2Proof.Proofs

open Sys2Proof.Machine Sys2Proof.Spec

/-- Settles O27: the checks pass, the read draws one byte, and that byte is the response value. -/
theorem readTemperatureReturnsTheAnswer : Obligations.ReadTemperatureReturnsTheAnswer := by
  intro s m d hb hl
  rw [← tempReadEvents_eq_tempRead, ← State.finish_after_eq_ended]
  exact ⟨execReadTemperature_of_bound hb hl, fun _ _ => State.nextAnswer_of_cons⟩

/-- Settles O28: the checks pass for every byte, and the body sends it after the driver's write before the command. -/
theorem forceTemperatureSendsTheByte : Obligations.ForceTemperatureSendsTheByte := by
  intro s m d v hb hl
  rw [← forceEvents_eq_optWrite, ← State.finish_after_eq_ended]
  exact execForceTemperature_of_bound hb hl v

/-- Settles O60: `FORCE_TEMPERATURE` leaves the receiver with the byte sent and the block bound in the same legal state,
where `READ_TEMPERATURE` returns the transport's first answer, which is that byte. -/
theorem echoedTemperatureRoundTrip : Obligations.EchoedTemperatureRoundTrip := by
  intro s m d v hb hl hram haddr
  have hforced := s.receiver.forced_feedAll_forceEvents hram haddr v
  refine ⟨_, execForceTemperature_of_bound hb hl v, hforced, fun b rest hecho => ?_⟩
  obtain rfl : v = b := Option.some.inj (hforced.symm.trans hecho)
  exact ⟨_, execReadTemperature_of_bound hb hl, rfl, rfl⟩

end Sys2Proof.Proofs
end

section
/-! The registry's operations that answer without an event, whole state: the two rejections of `BIND` (R148, R149),
`GET_ACTIVE_MODEL` (R150), and the named-only `LUT_DUMP` and `RAM_STREAM` (R152, R153). -/

namespace Sys2Proof.Machine

variable {s : State} {id : Byte}

theorem findModel_eq_none_iff {cfg : Cfg} : findModel cfg id = none ↔ ∀ m ∈ cfg.catalog, m.id ≠ id := by
  simp [findModel]

/-- `BIND` of an id the lookup does not find, on an unbound block (R147, R148). -/
theorem execBind_of_unknown (hunbound : s.bound = false) (hfind : findModel s.cfg id = none) :
    execBind id s = .next (s.finish ⟨.configurationError, false, subUnknownModel⟩) := by
  rw [execBind, hunbound, bindLookup, hfind]
  rfl

end Sys2Proof.Machine

namespace Sys2Proof.Proofs

open Sys2Proof.Machine Sys2Proof.Spec

/-- Settles O17: the check of `BOUND` comes before the lookup of the id. -/
theorem bindTwiceRejected : Obligations.BindTwiceRejected := fun _ id hb => execBind_of_bound id hb

/-- Settles O18: the lookup finds nothing when no catalog entry has the id. -/
theorem bindUnknownIdRejected : Obligations.BindUnknownIdRejected := fun _ _ hunbound hcatalog =>
  execBind_of_unknown hunbound (findModel_eq_none_iff.2 hcatalog)

/-- Settles O29: the answer carries `BOUND` as its flag and, where it is set, `ACTIVE_ID`. -/
theorem getActiveModelAnswers : Obligations.GetActiveModelAnswers := by
  intro s
  have hanswer : exec .getActiveModel s = .next (answered ⟨.ok, s.bound, if s.bound then s.activeId else 0⟩ s) :=
    execGetActiveModel_eq s
  rw [hanswer]
  constructor
  · intro hb
    rw [hb, if_pos rfl]
  · intro hunbound
    rw [hunbound, if_neg Bool.false_ne_true]

/-- Settles O30: both operations give one answer, and only `BOUND` decides which error it is. -/
theorem namedOnlyOperationsAnswerErrors : Obligations.NamedOnlyOperationsAnswerErrors := by
  intro s i hi
  have hanswer : exec i s = .next (answered (if s.bound then ⟨.unsupportedOperation, false, subCapabilityAbsent⟩
      else ⟨.configurationError, false, subNotBound⟩) s) := by
    rcases hi with rfl | rfl
    · exact execLutDump_eq s
    · exact execRamStream_eq s
  rw [hanswer]
  constructor
  · intro hunbound
    rw [hunbound, if_neg Bool.false_ne_true, subNotBound]
  · intro hb
    rw [hb, if_pos rfl, subCapabilityAbsent]

end Sys2Proof.Proofs
end

section
/-! The bound check of an unbound block (R158, R183), which comes before every other check (R166). -/

namespace Sys2Proof.Machine

variable {s : State}

/-- An unbound block ends with `NOT_BOUND` at the bound check, whatever would follow it. -/
theorem ifBound_of_unbound (hunbound : s.bound = false) (k : Outcome) :
    ifBound s k = .next (s.finish ⟨.configurationError, false, subNotBound⟩) := by
  rw [ifBound, hunbound, if_neg Bool.false_ne_true, State.raise]

/-- The same of an operation that needs a model. -/
theorem withModel_of_unbound (hunbound : s.bound = false) (k : Model → Driver → Outcome) :
    withModel s k = .next (s.finish ⟨.configurationError, false, subNotBound⟩) :=
  ifBound_of_unbound hunbound _

end Sys2Proof.Machine

namespace Sys2Proof.Proofs

open Sys2Proof.Machine Sys2Proof.Spec

/-- Settles O31: but for the two operations named, each meaning is the bound check before anything else it does. -/
theorem notBoundComesFirst : Obligations.NotBoundComesFirst := by
  intro s i hunbound hbind hget
  cases i with
  | bind id => exact absurd rfl (hbind id)
  | getActiveModel => exact absurd rfl hget
  | lutDump | ramStream => exact ifBound_of_unbound hunbound _
  | init | initFast | clear | writeImage | refresh | sleep | readTemperature | forceTemperature =>
    exact withModel_of_unbound hunbound _

end Sys2Proof.Proofs
end

section
/-! The refusals of the ports (R185, R186, R191), each the negative of an acceptance condition stated above. -/

namespace Sys2Proof.Machine

variable {s : State} {q : RequestWord}

/-- The check of `CFG` comes first: under an ill-formed one the word is refused, busy or not (R185). -/
theorem presentRequest_of_illFormed (hcfg : cfgOk s.cfg = false) : presentRequest q s = .refused .illFormedConfig := by
  rw [presentRequest, hcfg, if_neg Bool.false_ne_true]

/-- During an operation the port refuses whatever word it is shown (R186). -/
theorem presentRequest_of_busy (hcfg : cfgOk s.cfg = true) (hbusy : s.busy = true) :
    presentRequest q s = .refused .requestWhileBusy := by
  rw [presentRequest, if_pos hcfg, if_pos hbusy]

/-- During an operation neither buffer may be rewritten (R191). -/
theorem loadBuffer_of_busy {s' : State} (hbusy : s.busy = true) :
    loadBuffer s s' = .refused .bufferChangedWhileBusy := by
  rw [loadBuffer, if_pos hbusy]

end Sys2Proof.Machine

namespace Sys2Proof.Proofs

open Sys2Proof.Machine

/-- Settles O10: the step serves the action, and the port that takes it refuses. -/
theorem portRefusals : Obligations.PortRefusals := by
  intro s a rest hhost
  rw [step_eq_serve hhost]
  refine ⟨?_, ?_, ?_, ?_⟩
  · rintro q rfl hcfg
    exact presentRequest_of_illFormed hcfg
  · rintro q rfl hcfg hbusy
    exact presentRequest_of_busy hcfg hbusy
  · rintro bs rfl hbusy
    exact loadBuffer_of_busy hbusy
  · rintro bs rfl hbusy
    exact loadBuffer_of_busy hbusy

end Sys2Proof.Proofs
end
